-- ==== Sys2Proof/Word.lean ====
section
/-! DEFINITION. The data types of the CORE: bytes, 4-byte words, 16-byte blocks and the schedule of eleven
round keys (spec 00_scope.md R9, R10, R12; 10_state.md R22). -/

namespace Sys2Proof

/-- A byte; bit 0 is the least significant bit (00_scope.md R9). -/
abbrev Byte := BitVec 8

/-- A word, the source's "4-byte group" (00_scope.md R10). -/
abbrev Word := Vector Byte 4

/-- A 16-byte value: a key, round key, block, IV or chaining value (00_scope.md R10). As a matrix,
row `r` and column `c` name byte `r + 4*c` (R12). -/
abbrev Block := Vector Byte 16

/-- The eleven round keys (10_state.md R22). -/
abbrev Schedule := Vector Block 11

/-- A round index, 0 to 10: the type 93_implementation_defined.md V allows for ROUND. -/
abbrev Round := Fin 11

/-- An 8-bit command code (30_encoding.md R71). -/
abbrev CmdCode := BitVec 8

/-- A 12-bit micro-operation code (30_encoding.md R74). -/
abbrev UopCode := BitVec 12

end Sys2Proof
end

