-- ==== Sys2Proof/Config.lean ====
section
/-! DEFINITION. What a build fixes: the source's parameters (00_scope.md R7), the open capacities (R8, 20_memory.md
R68), and the free values that stand for every "no value" of the spec (10_state.md R41,
93_implementation_defined.md U2, U3). A free value has no body, so no proof can see what it is. -/

namespace Sys2Proof.Config

/-- KEY_BYTES, the one accepted key length (00_scope.md R7). -/
abbrev keyBytes : Nat := 16

/-- BLOCK_BYTES, the source's `blockSize` (00_scope.md R7, 45_padding.md R160). -/
abbrev blockBytes : Nat := 16

/-- The open capacities of 00_scope.md R8; `none` is unbounded. -/
structure Capacity where
  /-- DATA_CAP, the largest length DATA_IN can hold. -/
  dataCap : Option Nat
  /-- KEY_CAP, the largest length KEY_IN can hold. -/
  keyCap : Option Nat
deriving DecidableEq, Repr

/-- OUT_CAP is DATA_CAP + 16 when DATA_CAP is finite, else unbounded (00_scope.md R8). -/
def Capacity.outCap (c : Capacity) : Option Nat := c.dataCap.map (· + 16)

/-- A length fits a capacity. -/
def fits (cap : Option Nat) (n : Nat) : Bool :=
  match cap with
  | none => true
  | some c => decide (n ≤ c)

/-- KEY_CAP is at least 17, so that both wrong key lengths the source tests can be presented (00_scope.md R8). -/
def Capacity.legal (c : Capacity) : Bool := fits c.keyCap 17

/-- The default of 00_scope.md R8 and 92_eei_decisions.md D12: every capacity unbounded. DESIGN CHOICE, log 12. -/
def capacity : Capacity := { dataCap := none, keyCap := none }

/-! Free values, one for each element the spec leaves without value (log 3, 4). Each is applied to the
counter `State.free`, so that every occasion has a value of its own. -/

/-- KEY after a reset (93_implementation_defined.md U2). -/
opaque freeKey : Nat → Block
/-- RK after a reset (U2). -/
opaque freeRk : Nat → Schedule
/-- S when it holds no value (U3). -/
opaque freeS : Nat → Block
/-- CV when it holds no value (U3). -/
opaque freeCv : Nat → Block
/-- NXT when it holds no value (U3). -/
opaque freeNxt : Nat → Block
/-- T when it holds no value (U3). -/
opaque freeT : Nat → Word
/-- COL when it holds no value (U3). -/
opaque freeCol : Nat → Word
/-- ROUND when it holds no value (U3). -/
opaque freeRound : Nat → Round
/-- BLK when it holds no value (U3). -/
opaque freeBlk : Nat → Nat
/-- NBLK when it holds no value (U3). -/
opaque freeNblk : Nat → Nat
/-- WORK when it holds no value (U3). -/
opaque freeWork : Nat → List Byte
/-- The first argument port of the byte functions when no call is under way (the model's own, log 6). -/
opaque freeArgA : Nat → Byte
/-- The second argument port when no call is under way (the model's own, log 6). -/
opaque freeArgB : Nat → Byte

/-- What a slice outside its sequence would read as; no rule forms such a read (20_memory.md R52), and no
statement can rest on it (log 18). -/
opaque noByte : Byte

end Sys2Proof.Config
end

