-- ==== Sys2Proof/Syntax.lean ====
section
/-! DEFINITION. The instructions: one constructor for each of the 25 rows of spec/opcode_table.json, the three
commands (30_encoding.md R72) and the 22 micro-operations (R75). The only encoded operand is the 4-bit round
index `r` (R77); all data operands are the registers and buffers the rules name (R71, R74). -/

namespace Sys2Proof

inductive Instr where
  /-- INIT, CMD 0x01 (46_cbc_commands.md R174). -/
  | init
  /-- ENCRYPT, CMD 0x02 (R176). -/
  | encrypt
  /-- DECRYPT, CMD 0x03 (R177). -/
  | decrypt
  /-- XTIME, UOP 0x100 (40_gf_arithmetic.md R91). -/
  | xtime
  /-- GFMUL, UOP 0x110 (R92). -/
  | gfmul
  /-- SBOX, UOP 0x200 (41_substitution_tables.md R101). -/
  | sbox
  /-- INVSBOX, UOP 0x210 (R102). -/
  | invsbox
  /-- ROTWORD, UOP 0x300 (42_key_schedule.md R111). -/
  | rotword
  /-- SUBWORD, UOP 0x310 (R112). -/
  | subword
  /-- RCON, UOP 0x32r, r in 1..10 (R113). -/
  | rcon (r : BitVec 4)
  /-- KSROUND, UOP 0x33r, r in 1..10 (R114). -/
  | ksround (r : BitVec 4)
  /-- EXPAND, UOP 0x340 (R115). -/
  | expand
  /-- SUBBYTES, UOP 0x400 (43_block_transform.md R126). -/
  | subbytes
  /-- INVSUBBYTES, UOP 0x410 (R127). -/
  | invsubbytes
  /-- SHIFTROWS, UOP 0x420 (R128). -/
  | shiftrows
  /-- INVSHIFTROWS, UOP 0x430 (R129). -/
  | invshiftrows
  /-- MIXCOLUMNS, UOP 0x440 (R131). -/
  | mixcolumns
  /-- INVMIXCOLUMNS, UOP 0x450 (R132). -/
  | invmixcolumns
  /-- ADDROUNDKEY, UOP 0x46r, r in 0..10 (R133). -/
  | addroundkey (r : BitVec 4)
  /-- ENCRYPTBLOCK, UOP 0x500 (44_block_cipher_core.md R141). -/
  | encryptblock
  /-- DECRYPTBLOCK, UOP 0x510 (R142). -/
  | decryptblock
  /-- PAD, UOP 0x600 (45_padding.md R161). -/
  | pad
  /-- UNPAD, UOP 0x610 (R162). -/
  | unpad
  /-- CBCENC, UOP 0x700 (46_cbc_commands.md R171). -/
  | cbcenc
  /-- CBCDEC, UOP 0x710 (R172). -/
  | cbcdec
deriving DecidableEq, Repr

end Sys2Proof
end

