-- ==== Sys2Proof/WellFormed.lean ====
section
/-! DEFINITION. Which instruction terms stand for a legal code: the round index is in the row's range
(30_encoding.md R76: "RCON or KSROUND with r = 0 or r > 10, ADDROUNDKEY with r > 10" are reserved). -/

namespace Sys2Proof

/-- The least round index a row accepts; RCON and KSROUND have no round 0 (42_key_schedule.md R113). -/
def Instr.leastRound : Instr → Nat
  | .rcon _ | .ksround _ => 1
  | _ => 0

/-- The encoded round index of the three rows that have one (30_encoding.md R74). -/
def Instr.round? : Instr → Option (BitVec 4)
  | .rcon r | .ksround r | .addroundkey r => some r
  | _ => none

/-- The instruction is one of the three commands, not a micro-operation (30_encoding.md R70). -/
def Instr.isCommand : Instr → Bool
  | .init | .encrypt | .decrypt => true
  | _ => false

/-- The round index, where there is one, lies in the row's range (30_encoding.md R75, R76). -/
def Instr.wellFormed (i : Instr) : Bool :=
  match i.round? with
  | none => true
  | some r => decide (i.leastRound ≤ r.toNat ∧ r.toNat ≤ 10)

end Sys2Proof
end

