-- ==== Sys2Proof/Decode.lean ====
section
/-! DEFINITION. The decoders of 30_encoding.md R78, total on all 256 command codes and all 4096 micro-operation
codes, rejecting by name; and the encoder written from the tables of R72 and R75. -/

namespace Sys2Proof

/-- A code of one of the two code spaces (30_encoding.md R70). -/
inductive Code where
  | cmd (c : CmdCode)
  | uop (c : UopCode)
deriving DecidableEq, Repr

/-- Why a code is not an instruction. -/
inductive Reject where
  /-- A CMD code other than 0x01, 0x02, 0x03 (30_encoding.md R73). -/
  | reservedCommand (c : CmdCode)
  /-- A UOP code that matches no row of R75 (R76). -/
  | reservedMicroOp (c : UopCode)
  /-- A UOP code that matches a row with an `r` field whose `r` is out of the row's range (R76). -/
  | reservedRoundIndex (c : UopCode)
deriving DecidableEq, Repr

/-- The CMD decoder (30_encoding.md R72, R73). -/
def decodeCmd (c : CmdCode) : Except Reject Instr :=
  match c.toNat with
  | 0x01 => .ok .init
  | 0x02 => .ok .encrypt
  | 0x03 => .ok .decrypt
  | _ => .error (.reservedCommand c)

/-- Bits 3:0 of a UOP code, the round index (30_encoding.md R74). -/
def uopRound (c : UopCode) : BitVec 4 := c.extractLsb' 0 4

/-- Bits 11:4 of a UOP code, family and operation, which alone tell the rows apart (30_encoding.md R78). -/
def uopRow (c : UopCode) : BitVec 8 := c.extractLsb' 4 8

/-- A row whose mask is 0xFFF: bits 3:0 must be 0. -/
def plainRow (c : UopCode) (i : Instr) : Except Reject Instr :=
  if uopRound c = 0#4 then .ok i else .error (.reservedMicroOp c)

/-- A row whose mask is 0xFF0: bits 3:0 are the round index, which must lie in the row's range. -/
def roundRow (c : UopCode) (i : Instr) : Except Reject Instr :=
  if i.wellFormed then .ok i else .error (.reservedRoundIndex c)

/-- The UOP decoder (30_encoding.md R75, R76). -/
def decodeUop (c : UopCode) : Except Reject Instr :=
  match (uopRow c).toNat with
  | 0x10 => plainRow c .xtime
  | 0x11 => plainRow c .gfmul
  | 0x20 => plainRow c .sbox
  | 0x21 => plainRow c .invsbox
  | 0x30 => plainRow c .rotword
  | 0x31 => plainRow c .subword
  | 0x32 => roundRow c (.rcon (uopRound c))
  | 0x33 => roundRow c (.ksround (uopRound c))
  | 0x34 => plainRow c .expand
  | 0x40 => plainRow c .subbytes
  | 0x41 => plainRow c .invsubbytes
  | 0x42 => plainRow c .shiftrows
  | 0x43 => plainRow c .invshiftrows
  | 0x44 => plainRow c .mixcolumns
  | 0x45 => plainRow c .invmixcolumns
  | 0x46 => roundRow c (.addroundkey (uopRound c))
  | 0x50 => plainRow c .encryptblock
  | 0x51 => plainRow c .decryptblock
  | 0x60 => plainRow c .pad
  | 0x61 => plainRow c .unpad
  | 0x70 => plainRow c .cbcenc
  | 0x71 => plainRow c .cbcdec
  | _ => .error (.reservedMicroOp c)

/-- Both decoders together. -/
def decode : Code → Except Reject Instr
  | .cmd c => decodeCmd c
  | .uop c => decodeUop c

/-- A code with a round index in bits 3:0 of the row's match value (30_encoding.md R74, R77). -/
def withRound (row : UopCode) (r : BitVec 4) : Code := .uop (row ||| r.setWidth 12)

/-- The encoder: the match value of the instruction's row in 30_encoding.md R72 and R75, with `r` where the
row has one. -/
def encode : Instr → Code
  | .init => .cmd 0x01
  | .encrypt => .cmd 0x02
  | .decrypt => .cmd 0x03
  | .xtime => .uop 0x100
  | .gfmul => .uop 0x110
  | .sbox => .uop 0x200
  | .invsbox => .uop 0x210
  | .rotword => .uop 0x300
  | .subword => .uop 0x310
  | .rcon r => withRound 0x320 r
  | .ksround r => withRound 0x330 r
  | .expand => .uop 0x340
  | .subbytes => .uop 0x400
  | .invsubbytes => .uop 0x410
  | .shiftrows => .uop 0x420
  | .invshiftrows => .uop 0x430
  | .mixcolumns => .uop 0x440
  | .invmixcolumns => .uop 0x450
  | .addroundkey r => withRound 0x460 r
  | .encryptblock => .uop 0x500
  | .decryptblock => .uop 0x510
  | .pad => .uop 0x600
  | .unpad => .uop 0x610
  | .cbcenc => .uop 0x700
  | .cbcdec => .uop 0x710

/-- The code whose table row has `nbits` bits: 8 for the CMD rows, 12 (two whole bytes) for the UOP rows; `none`
where the word has a bit outside its code space (log 15). -/
def tableCode (nbits w : Nat) : Option Code :=
  if nbits ≤ 8 then
    if w < 2 ^ 8 then some (.cmd (BitVec.ofNat 8 w)) else none
  else
    if w < 2 ^ 12 then some (.uop (BitVec.ofNat 12 w)) else none

/-- The instruction the decoder reads from a table word of `nbits` bits. -/
def decodeTableWord (nbits w : Nat) : Option Instr :=
  match tableCode nbits w with
  | none => none
  | some c => (decode c).toOption

end Sys2Proof
end

