-- ==== Sys2Proof/Machine/State.lean ====
section
/-! DEFINITION. The state of the CORE (10_state.md R20), of the HOST that drives it, and the reasons a step can
stop. INVENTORY.md lists every element with its rule and reset value. -/

namespace Sys2Proof.Machine

/-- The four error kinds (60_exceptions.md R190). -/
inductive ErrorKind where
  | invalidKeySize
  | invalidInputSize
  | invalidPadding
  | genericError
deriving DecidableEq, Repr

/-- STATUS.ERR: the outcome of the most recent command. Five values; codes 5, 6, 7 are never produced
(60_exceptions.md R190). -/
inductive ErrField where
  | ok
  | raised (e : ErrorKind)
deriving DecidableEq, Repr

/-- What a function returned (00_scope.md R15: a value or one error kind). The model's own, log 6. -/
inductive Result where
  | none
  | byte (b : Byte)
  | bytes (x : List Byte)
  | error (e : ErrorKind)
deriving DecidableEq, Repr

/-- The HOST's steps: the lines of a host script (30_encoding.md R80). The IV is a 16-byte register, so no other
length can be presented (10_state.md R29). -/
inductive HostStep where
  | reset
  | loadKey (bytes : List Byte)
  | loadIv (iv : Block)
  | loadData (bytes : List Byte)
  | cmd (code : CmdCode)
  | readStatus
  | readOut
deriving DecidableEq, Repr

/-- What a READSTATUS or a READOUT yields to the HOST (30_encoding.md R80); a READOUT of an absent DATA_OUT
yields nothing (10_state.md R32, 93_implementation_defined.md U8). -/
inductive Yield where
  | status (b : Byte)
  | out (bytes : Option (List Byte))
deriving DecidableEq, Repr

/-- A step of the sequencer inside a command: an issued micro-operation, or one of the moves the sequencer makes itself, to
which 30_encoding.md R75 gives no code (log 2, 24). -/
inductive SeqStep where
  /-- The micro-operation of this code is issued (30_encoding.md R75). -/
  | issue (c : UopCode)
  /-- `ROUND <- r` (00_scope.md R14; 42_key_schedule.md R119, 44_block_cipher_core.md R153, R154). -/
  | setRound (r : Round)
  /-- ROUND "holds no value again" (42_key_schedule.md R119). -/
  | dropRound
  /-- `RK[0] <- KEY_IN` (42_key_schedule.md R119). -/
  | copyKey
  /-- `T <- P[12..15]`, P being RK[r-1] (42_key_schedule.md R114). -/
  | loadT (r : Round)
  /-- `S <- B` (44_block_cipher_core.md R153, R154). -/
  | loadS (b : Block)
deriving DecidableEq, Repr

/-- Everything the spec gives the CORE (10_state.md R20), then the model's own fields. -/
structure State where
  /-- KEY (10_state.md R21). -/
  key : Block
  /-- RK (R22). -/
  rk : Schedule
  /-- CTX_VALID (R23): KEY and RK hold a context. -/
  ctxValid : Bool
  /-- S, the block register (R24). -/
  regS : Block
  /-- CV, the chaining value (R25). -/
  regCv : Block
  /-- NXT, the next chaining value in DECRYPT (R26). -/
  regNxt : Block
  /-- T, the word of the key schedule (R27). -/
  regT : Word
  /-- COL, the column being replaced (R28). -/
  regCol : Word
  /-- ROUND (R33). -/
  round : Round
  /-- BLK (R33). -/
  blk : Nat
  /-- NBLK (R33). -/
  nblk : Nat
  /-- WORK, the hidden buffer (R34). -/
  work : List Byte
  /-- IV_PRESENT and IV (R29). -/
  iv : Option Block
  /-- KEY_IN_PRESENT and KEY_IN (R30). -/
  keyIn : Option (List Byte)
  /-- DATA_IN_PRESENT and DATA_IN (R31). -/
  dataIn : Option (List Byte)
  /-- DATA_OUT_PRESENT and DATA_OUT (R32). -/
  dataOut : Option (List Byte)
  /-- STATUS.ERR (R36). -/
  err : ErrField
  /-- First argument of a byte function (the model's own, log 6). -/
  argA : Byte
  /-- Second argument of a byte function (the model's own, log 6). -/
  argB : Byte
  /-- What the last micro-operation's function returned (the model's own, log 6). -/
  result : Result
  /-- What the sequencer has still to do in the running command, the next step first (log 2). -/
  seq : List SeqStep
  /-- The HOST's coming steps, the next one first (log 2). -/
  script : List HostStep
  /-- What the HOST has read so far, oldest first (log 13). -/
  yielded : List Yield
  /-- The counter the free values are applied to (log 5). -/
  free : Nat
deriving DecidableEq, Repr

/-- Reasons the machine stops with a fault. -/
inductive Fault where
  /-- Raised by LOADKEY and LOADDATA when the bytes exceed the build's capacity: "that HOST step [has] no successor"
  (20_memory.md R68, 93_implementation_defined.md U4). Safe: the model says nothing about messages the build cannot hold.
  With the default, unbounded capacities it cannot occur. -/
  | loadBeyondCapacity
deriving DecidableEq, Repr

/-- Reasons the model refuses. -/
inductive Refusal where
  /-- Raised by an arm of `exec` whose instruction has no meaning yet. Safe. -/
  | notModelled (mnemonic : String)
  /-- Raised by the step for an issued code the UOP decoder refuses: such a code "is unreachable and has no behaviour"
  (30_encoding.md R76). Safe. -/
  | reservedMicroOp
  /-- Raised by RCON, KSROUND and ADDROUNDKEY on a round index outside the row's range, a term no code decodes to
  (30_encoding.md R76). Safe. -/
  | reservedRoundIndex
deriving DecidableEq, Repr

/-- The state after a reset that draws its free values at `n` (10_state.md R41, 70_reset_and_hazards.md R216):
no context, every slot absent, STATUS 0x00, no value in KEY, RK and the transients (log 3), the sequencer idle, and no HOST
step waiting. -/
def State.powerUp (n : Nat) : State where
  key := Config.freeKey n
  rk := Config.freeRk n
  ctxValid := false
  regS := Config.freeS n
  regCv := Config.freeCv n
  regNxt := Config.freeNxt n
  regT := Config.freeT n
  regCol := Config.freeCol n
  round := Config.freeRound n
  blk := Config.freeBlk n
  nblk := Config.freeNblk n
  work := Config.freeWork n
  iv := none
  keyIn := none
  dataIn := none
  dataOut := none
  err := .ok
  argA := Config.freeArgA n
  argB := Config.freeArgB n
  result := .none
  seq := []
  script := []
  yielded := []
  free := n + 1

/-- The machine right after reset (10_state.md R41). -/
def State.reset : State := State.powerUp 0

end Sys2Proof.Machine
end

