-- ==== Sys2Proof/Machine/Flags.lean ====
section
/-! DEFINITION. The status register: the codes of STATUS.ERR (60_exceptions.md R190) and the layout of STATUS
(10_state.md R36). There are no other flags. -/

namespace Sys2Proof.Machine

/-- The code of an error kind (60_exceptions.md R190). -/
def ErrorKind.code : ErrorKind → Nat
  | .invalidKeySize => 1
  | .invalidInputSize => 2
  | .invalidPadding => 3
  | .genericError => 4

/-- The number STATUS.ERR shows (60_exceptions.md R190). -/
def ErrField.code : ErrField → Nat
  | .ok => 0
  | .raised e => e.code

/-- STATUS (10_state.md R36): ERR in bits 2:0, CTX_VALID in bit 3, OUT_PRESENT in bit 4, bits 7:5 read as 0. -/
def State.status (s : State) : Byte :=
  0#3 ++ BitVec.ofBool s.dataOut.isSome ++ BitVec.ofBool s.ctxValid ++ BitVec.ofNat 3 s.err.code

end Sys2Proof.Machine
end

