-- ==== Sys2Proof/Machine/Ops.lean ====
section
/-! DEFINITION. The operations the meanings share: byte sequences and buffers (20_memory.md R51 to R54), the ends
of a command (error entry of 60_exceptions.md R195, success of 46_cbc_commands.md R173 step 5), reset, and the HOST's port
accesses (30_encoding.md R80). -/

namespace Sys2Proof.Machine

/-! ### Byte sequences and buffers -/

/-- Bytewise exclusive or of two words (00_scope.md R13). -/
def xorWord (a b : Word) : Word := Vector.zipWith (· ^^^ ·) a b

/-- Bytewise exclusive or of two blocks (00_scope.md R13). -/
def xorBlock (a b : Block) : Block := Vector.zipWith (· ^^^ ·) a b

/-- Column `c` of a block, its word `B[4c..4c+3]` (00_scope.md R12); of a round key, its word `c` (20_memory.md R54). -/
def column (b : Block) (c : Fin 4) : Word := Vector.ofFn fun r : Fin 4 => b[r.val + 4 * c.val]

/-- The block whose columns are the four words. -/
def ofColumns (w : Fin 4 → Word) : Block :=
  Vector.ofFn fun i : Fin 16 => (w ⟨i.val / 4, by omega⟩)[i.val % 4]

/-- `MemRead(BUF, off, n)`, the bytes `BUF[off..off+n-1]`, formed only when `off + n <= len(BUF)` (20_memory.md R52). -/
def memRead (buf : List Byte) (off n : Nat) : List Byte := (buf.drop off).take n

/-- A 16-byte sequence as a block. No rule forms it of another length (log 18). -/
def toBlock (x : List Byte) : Block := Vector.ofFn fun i : Fin 16 => x.getD i.val Config.noByte

/-- Block `k` of a message, `X[16k..16k+15]` (20_memory.md R54). -/
def blockAt (x : List Byte) (k : Nat) : Block := toBlock (memRead x (16 * k) 16)

/-- `MemWrite` by appending, `BUF <- BUF ++ v` (20_memory.md R53 (b)). -/
def append (buf : List Byte) (v : Block) : List Byte := buf ++ v.toList

/-! ### The end of a command -/

/-- The transient elements hold no value after a command (10_state.md R43, 60_exceptions.md R195 item 6): each takes a
free value, and the sequencer is idle (log 4). -/
def dropTransients (s : State) : State :=
  { s with
    regS := Config.freeS s.free
    regCv := Config.freeCv s.free
    regNxt := Config.freeNxt s.free
    regT := Config.freeT s.free
    regCol := Config.freeCol s.free
    round := Config.freeRound s.free
    blk := Config.freeBlk s.free
    nblk := Config.freeNblk s.free
    work := Config.freeWork s.free
    argA := Config.freeArgA s.free
    argB := Config.freeArgB s.free
    seq := []
    free := s.free + 1 }

/-- `raise E`, the CORE's whole error entry (60_exceptions.md R195): STATUS.ERR shows `e`, the command ends, no further
micro-operation of it runs, and everything persistent keeps its value. -/
def raise (e : ErrorKind) (s : State) : State :=
  { dropTransients s with err := .raised e, result := .error e }

/-- A command ends without error: STATUS.ERR <- 0 (46_cbc_commands.md R173 step 5). -/
def finish (s : State) : State :=
  { dropTransients s with err := .ok, result := .none }

/-- ROUND "holds no value again" (42_key_schedule.md R119): it takes a free value (log 10). -/
def dropRound (s : State) : State := { s with round := Config.freeRound s.free, free := s.free + 1 }

/-! ### The HOST's port accesses (30_encoding.md R80) -/

/-- RESET: the CORE is in the state of 70_reset_and_hazards.md R216; the HOST's own script and record stay. -/
def resetCore (s : State) : State :=
  { State.powerUp s.free with script := s.script, yielded := s.yielded }

/-- LOADKEY: KEY_IN is present with the bytes (10_state.md R30). -/
def loadKey (bytes : List Byte) (s : State) : State := { s with keyIn := some bytes }

/-- LOADIV: IV is present with the 16 bytes (10_state.md R29). -/
def loadIv (iv : Block) (s : State) : State := { s with iv := some iv }

/-- LOADDATA: DATA_IN is present with the bytes (10_state.md R31). -/
def loadData (bytes : List Byte) (s : State) : State := { s with dataIn := some bytes }

/-- A read yields a value to the HOST and changes nothing of the CORE (20_memory.md R59). -/
def yieldToHost (y : Yield) (s : State) : State := { s with yielded := s.yielded ++ [y] }

/-- The one event that passes arguments to a byte function of the CORE: the caller binds them (00_scope.md R14, log 6). -/
def bindArgs (a b : Byte) (s : State) : State := { s with argA := a, argB := b }

end Sys2Proof.Machine
end

