-- ==== Sys2Proof/Machine/Operands.lean ====
section
/-! DEFINITION. The operands of the commands and micro-operations: the boundary check of 46_cbc_commands.md R173
step 3 and the encoded round index (30_encoding.md R77). -/

namespace Sys2Proof.Machine

/-- The operands of ENCRYPT and DECRYPT: the context slot, IV and DATA_IN must all exist (46_cbc_commands.md R173 step 3). -/
def State.cipherOperands (s : State) : Option (Schedule × Block × List Byte) :=
  if s.ctxValid then
    match s.iv, s.dataIn with
    | some iv, some d => some (s.rk, iv, d)
    | _, _ => none
  else none

/-- The operands of the CBC micro-operations: RK, IV and DATA_IN (46_cbc_commands.md R171, R172). -/
def State.cbcOperands (s : State) : Option (Block × List Byte) :=
  match s.iv, s.dataIn with
  | some iv, some d => some (iv, d)
  | _, _ => none

/-- What reads the key in KEY_IN: an absent KEY_IN is a missing operand (log 8), and a wrong length raises InvalidKeySize
before anything is written (42_key_schedule.md R115, R117). -/
def onKeyIn (run : Block → State → State) (s : State) : State :=
  match s.keyIn with
  | none => raise .genericError s
  | some k => if k.length = Config.keyBytes then run (toBlock k) s else raise .invalidKeySize s

/-- The encoded round index as a number, legal from `least` to 10 (30_encoding.md R77). -/
def roundIndex (least : Nat) (r : BitVec 4) : Option Round :=
  if h : least ≤ r.toNat ∧ r.toNat < 11 then some ⟨r.toNat, h.2⟩ else none

/-- A form whose round index is legal runs; another is a reserved code, which has no behaviour (30_encoding.md R76). -/
def withRoundIndex (least : Nat) (r : BitVec 4) (run : Round → State) : Host.Outcome State Fault Refusal :=
  match roundIndex least r with
  | some i => .next (run i)
  | none => .refused .reservedRoundIndex

end Sys2Proof.Machine
end

