-- ==== Sys2Proof/Machine/GfArithmetic.lean ====
section
/-! DEFINITION. GF(2^8) arithmetic: XTIME and GFMUL (spec/40_gf_arithmetic.md). -/

namespace Sys2Proof.Machine

/-- XTIME, multiplication by the byte 0x02 (40_gf_arithmetic.md R91). -/
def xtime (a : Byte) : Byte :=
  if a.getLsbD 7 then (a <<< 1) ^^^ 0x1B#8 else a <<< 1

/-- `n` iterations of the loop of GFMUL on the locals `acc`, `a`, `b` (40_gf_arithmetic.md R92). -/
def gfmulLoop : Nat → Byte → Byte → Byte → Byte
  | 0, acc, _, _ => acc
  | n + 1, acc, a, b => gfmulLoop n (if b.getLsbD 0 then acc ^^^ a else acc) (xtime a) (b >>> 1)

/-- GFMUL, the product in GF(2^8): exactly 8 iterations from the accumulator 0x00 (40_gf_arithmetic.md R92). -/
def gfmul (a b : Byte) : Byte := gfmulLoop 8 0x00#8 a b

/-- XTIME on its argument port (log 6): it reads and writes no state of the CORE (40_gf_arithmetic.md R97). -/
def execXtime (s : State) : Host.Outcome State Fault Refusal :=
  .next { s with result := .byte (xtime s.argA) }

/-- GFMUL on its argument ports (log 6): it reads and writes no state of the CORE (40_gf_arithmetic.md R97). -/
def execGfmul (s : State) : Host.Outcome State Fault Refusal :=
  .next { s with result := .byte (gfmul s.argA s.argB) }

end Sys2Proof.Machine
end

