-- ==== Sys2Proof/Machine/BlockTransform.lean ====
section
/-! DEFINITION. The block transform stages and their inverses (spec/43_block_transform.md): pure functions from the
old block to the new one (R136), and their effect on S and COL. -/

namespace Sys2Proof.Machine

/-- A 4 by 4 byte matrix, a vector of its rows. -/
abbrev Matrix4 := Vector Word 4

/-- The matrix with row 0 as given and each further row the one above moved right by one place, the last entry coming back
in front: the shape of both matrices of 43_block_transform.md R131 and R132. -/
def circulant (a b c d : Byte) : Matrix4 := #v[#v[a, b, c, d], #v[d, a, b, c], #v[c, d, a, b], #v[b, c, d, a]]

/-- MIX, by its row 0 (43_block_transform.md R131). -/
def mix : Matrix4 := circulant 0x02 0x03 0x01 0x01

/-- INVMIX, by its row 0 (43_block_transform.md R132). -/
def invMix : Matrix4 := circulant 0x0E 0x0B 0x0D 0x09

/-- SUBBYTES (43_block_transform.md R126). -/
def subBytes (b : Block) : Block := b.map sbox

/-- INVSUBBYTES (43_block_transform.md R127). -/
def invSubBytes (b : Block) : Block := b.map invSbox

/-- SHIFTROWS: the new byte of row `r`, column `c` comes from column `(c + r) mod 4` (43_block_transform.md R128). -/
def shiftRows (b : Block) : Block :=
  Vector.ofFn fun i : Fin 16 => b[i.val % 4 + 4 * ((i.val / 4 + i.val % 4) % 4)]

/-- INVSHIFTROWS: the new byte of row `r`, column `c` comes from column `(c - r) mod 4` (43_block_transform.md R129). -/
def invShiftRows (b : Block) : Block :=
  Vector.ofFn fun i : Fin 16 => b[i.val % 4 + 4 * ((i.val / 4 + 4 - i.val % 4) % 4)]

/-- MATCOL, the product of a matrix and a column (43_block_transform.md R130). -/
def matCol (m : Matrix4) (a : Word) : Word :=
  Vector.ofFn fun r : Fin 4 =>
    gfmul m[r.val][0] a[0] ^^^ gfmul m[r.val][1] a[1] ^^^ gfmul m[r.val][2] a[2] ^^^ gfmul m[r.val][3] a[3]

/-- MIXCOLUMNS (43_block_transform.md R131). -/
def mixColumns (b : Block) : Block := ofColumns fun c => matCol mix (column b c)

/-- INVMIXCOLUMNS (43_block_transform.md R132). -/
def invMixColumns (b : Block) : Block := ofColumns fun c => matCol invMix (column b c)

/-- ADDROUNDKEY as a function of the block and the round key (43_block_transform.md R133). -/
def addRoundKey (b k : Block) : Block := xorBlock b k

/-! The stages in the sequencer: `S <- STAGE(S)` (43_block_transform.md R125). The column mixings leave in COL the
copy of the last column they replaced (R131, R132). -/

def subBytesOp (s : State) : State := { s with regS := subBytes s.regS }

def invSubBytesOp (s : State) : State := { s with regS := invSubBytes s.regS }

def shiftRowsOp (s : State) : State := { s with regS := shiftRows s.regS }

def invShiftRowsOp (s : State) : State := { s with regS := invShiftRows s.regS }

def mixColumnsOp (s : State) : State := { s with regS := mixColumns s.regS, regCol := column s.regS 3 }

def invMixColumnsOp (s : State) : State := { s with regS := invMixColumns s.regS, regCol := column s.regS 3 }

def addRoundKeyOp (r : Round) (s : State) : State := { s with regS := addRoundKey s.regS s.rk[r.val] }

/-- SUBBYTES (43_block_transform.md R126). -/
def execSubbytes (s : State) : Host.Outcome State Fault Refusal := .next (subBytesOp s)

/-- INVSUBBYTES (43_block_transform.md R127). -/
def execInvsubbytes (s : State) : Host.Outcome State Fault Refusal := .next (invSubBytesOp s)

/-- SHIFTROWS (43_block_transform.md R128). -/
def execShiftrows (s : State) : Host.Outcome State Fault Refusal := .next (shiftRowsOp s)

/-- INVSHIFTROWS (43_block_transform.md R129). -/
def execInvshiftrows (s : State) : Host.Outcome State Fault Refusal := .next (invShiftRowsOp s)

/-- MIXCOLUMNS (43_block_transform.md R131). -/
def execMixcolumns (s : State) : Host.Outcome State Fault Refusal := .next (mixColumnsOp s)

/-- INVMIXCOLUMNS (43_block_transform.md R132). -/
def execInvmixcolumns (s : State) : Host.Outcome State Fault Refusal := .next (invMixColumnsOp s)

/-- ADDROUNDKEY with RK[r] (43_block_transform.md R133, log 22). -/
def execAddroundkey (r : BitVec 4) (s : State) : Host.Outcome State Fault Refusal :=
  withRoundIndex 0 r fun i => addRoundKeyOp i s

end Sys2Proof.Machine
end

