-- ==== Sys2Proof/Machine/BlockCipher.lean ====
section
/-! DEFINITION. The block cipher core (spec/44_block_cipher_core.md): the pure functions of R141 and R142, the round
state machines of R153 and R154, and the micro-operations that run them. -/

namespace Sys2Proof.Machine

/-- Rounds 1 to 9 of ENCRYPTBLOCK, in order (44_block_cipher_core.md R141). -/
def innerRounds : List Round := [1, 2, 3, 4, 5, 6, 7, 8, 9]

/-- One of rounds 1 to 9 of ENCRYPTBLOCK (44_block_cipher_core.md R141). -/
def encRound (rk : Schedule) (b : Block) (r : Round) : Block :=
  addRoundKey (mixColumns (shiftRows (subBytes b))) rk[r.val]

/-- ENCRYPTBLOCK as a function (44_block_cipher_core.md R141). -/
def encryptBlock (b : Block) (rk : Schedule) : Block :=
  addRoundKey (shiftRows (subBytes (innerRounds.foldl (encRound rk) (addRoundKey b rk[0])))) rk[10]

/-- One of rounds 9 to 1 of DECRYPTBLOCK (44_block_cipher_core.md R142). -/
def decRound (rk : Schedule) (b : Block) (r : Round) : Block :=
  invMixColumns (addRoundKey (invSubBytes (invShiftRows b)) rk[r.val])

/-- DECRYPTBLOCK as a function (44_block_cipher_core.md R142). -/
def decryptBlock (b : Block) (rk : Schedule) : Block :=
  addRoundKey (invSubBytes (invShiftRows (innerRounds.reverse.foldl (decRound rk) (addRoundKey b rk[10])))) rk[0]

/-- One step of the encryption machine, chosen by ROUND alone (44_block_cipher_core.md R153). -/
def encStep (s : State) : State :=
  if s.round.val = 0 then { addRoundKeyOp s.round s with round := 1 }
  else if s.round.val = 10 then addRoundKeyOp s.round (shiftRowsOp (subBytesOp s))
  else { addRoundKeyOp s.round (mixColumnsOp (shiftRowsOp (subBytesOp s))) with round := s.round + 1 }

/-- One step of the decryption machine, chosen by ROUND alone (44_block_cipher_core.md R154). -/
def decStep (s : State) : State :=
  if s.round.val = 10 then { addRoundKeyOp s.round s with round := 9 }
  else if s.round.val = 0 then addRoundKeyOp s.round (invSubBytesOp (invShiftRowsOp s))
  else { invMixColumnsOp (addRoundKeyOp s.round (invSubBytesOp (invShiftRowsOp s))) with round := s.round - 1 }

/-- `n` steps of a machine. -/
def runSteps (f : State → State) : Nat → State → State
  | 0, s => s
  | n + 1, s => runSteps f n (f s)

/-- The encryption machine on the block in S: ROUND 0 after the load, then exactly 11 steps (44_block_cipher_core.md R153). -/
def encryptBlockOp (s : State) : State := runSteps encStep 11 { s with round := 0 }

/-- The decryption machine on the block in S: ROUND 10 after the load, then exactly 11 steps (44_block_cipher_core.md R154). -/
def decryptBlockOp (s : State) : State := runSteps decStep 11 { s with round := 10 }

/-- ENCRYPTBLOCK on S (44_block_cipher_core.md R141, R153, log 10). -/
def execEncryptblock (s : State) : Host.Outcome State Fault Refusal := .next (encryptBlockOp s)

/-- DECRYPTBLOCK on S (44_block_cipher_core.md R142, R154, log 10). -/
def execDecryptblock (s : State) : Host.Outcome State Fault Refusal := .next (decryptBlockOp s)

end Sys2Proof.Machine
end

