-- ==== Sys2Proof/Machine/Padding.lean ====
section
/-! DEFINITION. PKCS#7 padding: PAD and UNPAD (spec/45_padding.md). -/

namespace Sys2Proof.Machine

/-- PAD: `N = 16 - (len mod 16)` copies of the byte `N` are appended (45_padding.md R161). -/
def pad (data : List Byte) : List Byte :=
  let n := Config.blockBytes - data.length % Config.blockBytes
  data ++ List.replicate n (BitVec.ofNat 8 n)

/-- UNPAD: the sequence without its padding, or InvalidPadding (45_padding.md R162). -/
def unpad (data : List Byte) : Except ErrorKind (List Byte) :=
  let n := data.length
  if n = 0 then .error .invalidPadding
  else if n % Config.blockBytes ≠ 0 then .error .invalidPadding
  else
    let last := data.getD (n - 1) Config.noByte
    let l := last.toNat
    if l = 0 then .error .invalidPadding
    else if l > Config.blockBytes then .error .invalidPadding
    else if (memRead data (n - l) l).any (· != last) then .error .invalidPadding
    else .ok (memRead data 0 (n - l))

/-- PAD in the CORE: `WORK <- PAD(DATA_IN)`; DATA_IN is not changed (45_padding.md R161). An absent DATA_IN is a missing
operand (log 8). -/
def execPad (s : State) : Host.Outcome State Fault Refusal :=
  .next <|
    match s.dataIn with
    | none => raise .genericError s
    | some d => { s with work := pad d }

/-- UNPAD in the CORE: `UNPAD(WORK)` is the result, or InvalidPadding is raised (45_padding.md R162, log 9). -/
def execUnpad (s : State) : Host.Outcome State Fault Refusal :=
  .next <|
    match unpad s.work with
    | .ok d => { s with result := .bytes d }
    | .error e => raise e s

end Sys2Proof.Machine
end

