-- ==== Sys2Proof/Machine/Cbc.lean ====
section
/-! DEFINITION. CBC mode (spec/46_cbc_commands.md sections 1 and 2): the pure functions of R171 and R172, the block
loops of R181 over the registers, and the two micro-operations. -/

namespace Sys2Proof.Machine

/-- The loop of CBCENC from block `k` for `n` blocks with chaining value `cv` (46_cbc_commands.md R171). -/
def cbcEncLoop (rk : Schedule) (work : List Byte) : Nat → Nat → Block → List Byte
  | 0, _, _ => []
  | n + 1, k, cv =>
    let c := encryptBlock (xorBlock (blockAt work k) cv) rk
    c.toList ++ cbcEncLoop rk work n (k + 1) c

/-- CBCENC (46_cbc_commands.md R171). -/
def cbcEnc (rk : Schedule) (iv : Block) (p : List Byte) : List Byte :=
  cbcEncLoop rk (pad p) ((pad p).length / 16) 0 iv

/-- The loop of CBCDEC from block `k` for `n` blocks with chaining value `cv` (46_cbc_commands.md R172). -/
def cbcDecLoop (rk : Schedule) (c : List Byte) : Nat → Nat → Block → List Byte
  | 0, _, _ => []
  | n + 1, k, cv =>
    let nxt := blockAt c k
    (xorBlock (decryptBlock nxt rk) cv).toList ++ cbcDecLoop rk c n (k + 1) nxt

/-- CBCDEC: size check, all blocks, then UNPAD (46_cbc_commands.md R172). -/
def cbcDec (rk : Schedule) (iv : Block) (c : List Byte) : Except ErrorKind (List Byte) :=
  if c.length = 0 then .error .invalidInputSize
  else if c.length % 16 ≠ 0 then .error .invalidInputSize
  else unpad (cbcDecLoop rk c (c.length / 16) 0 iv)

/-! ### The block loops over the registers (46_cbc_commands.md R181) -/

/-- One block of ENCRYPT on the registers; the second component is the output so far, R171's local OUT. -/
def cbcEncStep (p : State × List Byte) : State × List Byte :=
  let s := p.1
  let t := encryptBlockOp { s with regS := xorBlock (blockAt s.work s.blk) s.regCv }
  ({ t with regCv := t.regS, blk := t.blk + 1 }, append p.2 t.regS)

/-- The registers at the start of the ENCRYPT loop. -/
def cbcEncLoad (iv : Block) (d : List Byte) (s : State) : State :=
  { s with work := pad d, nblk := (pad d).length / 16, regCv := iv, blk := 0 }

/-- `n` iterations of a block loop. -/
def runBlocks {α : Type} (f : α → α) : Nat → α → α
  | 0, x => x
  | n + 1, x => runBlocks f n (f x)

/-- CBCENC on the registers: while BLK < NBLK, one block; the output is the result (46_cbc_commands.md R181). -/
def cbcEncOp (iv : Block) (d : List Byte) (s : State) : State :=
  let s0 := cbcEncLoad iv d s
  let p := runBlocks cbcEncStep s0.nblk (s0, [])
  { p.1 with result := .bytes p.2 }

/-- One block of DECRYPT on the registers: NXT remembers the ciphertext block, WORK collects the result. -/
def cbcDecStep (c : List Byte) (s : State) : State :=
  let n := blockAt c s.blk
  let t := decryptBlockOp { s with regNxt := n, regS := n }
  let x := xorBlock t.regS t.regCv
  { t with regS := x, work := append t.work x, regCv := t.regNxt, blk := t.blk + 1 }

/-- The registers at the start of the DECRYPT loop. -/
def cbcDecLoad (iv : Block) (c : List Byte) (s : State) : State :=
  { s with work := [], nblk := c.length / 16, regCv := iv, blk := 0 }

/-- CBCDEC on the registers: the size check, while BLK < NBLK one block, then UNPAD of WORK (46_cbc_commands.md R181). -/
def cbcDecOp (iv : Block) (c : List Byte) (s : State) : State :=
  if c.length = 0 then raise .invalidInputSize s
  else if c.length % 16 ≠ 0 then raise .invalidInputSize s
  else
    let s0 := cbcDecLoad iv c s
    let t := runBlocks (cbcDecStep c) s0.nblk s0
    match unpad t.work with
    | .ok d => { t with result := .bytes d }
    | .error e => raise e t

/-- CBCENC on RK, IV and DATA_IN (46_cbc_commands.md R171, R181); an absent operand is a missing argument (log 8). -/
def execCbcenc (s : State) : Host.Outcome State Fault Refusal :=
  .next <|
    match s.cbcOperands with
    | none => raise .genericError s
    | some (iv, d) => cbcEncOp iv d s

/-- CBCDEC on RK, IV and DATA_IN (46_cbc_commands.md R172, R181); an absent operand is a missing argument (log 8). -/
def execCbcdec (s : State) : Host.Outcome State Fault Refusal :=
  .next <|
    match s.cbcOperands with
    | none => raise .genericError s
    | some (iv, c) => cbcDecOp iv c s

end Sys2Proof.Machine
end

