-- ==== Sys2Proof/Machine/KeySchedule.lean ====
section
/-! DEFINITION. The key schedule: ROTWORD, SUBWORD, RCON, KSROUND, EXPAND (spec/42_key_schedule.md). -/

namespace Sys2Proof.Machine

/-- ROTWORD, rotation toward index 0 (42_key_schedule.md R111). -/
def rotWord (w : Word) : Word := #v[w[1], w[2], w[3], w[0]]

/-- SUBWORD (42_key_schedule.md R112). -/
def subWord (w : Word) : Word := w.map sbox

/-- The ten round constants, RCON[1] first (42_key_schedule.md R113). -/
def rconTable : List Byte := [0x01, 0x02, 0x04, 0x08, 0x10, 0x20, 0x40, 0x80, 0x1B, 0x36]

/-- RCON[r], r in 1..10 (42_key_schedule.md R113). "There is no RCON[0]" and none past 10: there the function gives the
opaque byte, which no meaning reaches (DESIGN CHOICE, log 18). -/
def rcon : Nat → Byte
  | 0 => Config.noByte
  | r + 1 => rconTable.getD r Config.noByte

/-- The transformed word of round `r`, R116's G: rotate, substitute, and XOR RCON[r] into byte 0 only
(42_key_schedule.md R114). -/
def transformWord (r : Nat) (v : Word) : Word :=
  let t := subWord (rotWord v)
  t.set 0 (t[0] ^^^ rcon r)

/-- KSROUND, round key `r` from round key `r-1` (42_key_schedule.md R114): word 0 is XORed with the transformed word, each
later word with the word of the new key before it. -/
def ksRound (r : Nat) (p : Block) : Block :=
  let t := transformWord r (column p 3)
  let w0 := xorWord (column p 0) t
  let w1 := xorWord (column p 1) w0
  let w2 := xorWord (column p 2) w1
  let w3 := xorWord (column p 3) w2
  ofColumns fun
    | 0 => w0
    | 1 => w1
    | 2 => w2
    | 3 => w3

/-- Round key `r` of a key (42_key_schedule.md R115). -/
def roundKey (key : Block) : Nat → Block
  | 0 => key
  | r + 1 => ksRound (r + 1) (roundKey key r)

/-- The eleven round keys of a 16-byte key (42_key_schedule.md R115). -/
def schedule (key : Block) : Schedule := Vector.ofFn fun r : Round => roundKey key r.val

/-- EXPAND: the schedule, or InvalidKeySize (42_key_schedule.md R115, R117). -/
def expand (key : List Byte) : Except ErrorKind Schedule :=
  if key.length = Config.keyBytes then .ok (schedule (toBlock key)) else .error .invalidKeySize

/-- ROTWORD on T (42_key_schedule.md R111). -/
def rotWordOp (s : State) : State := { s with regT := rotWord s.regT }

/-- SUBWORD on T (42_key_schedule.md R112). -/
def subWordOp (s : State) : State := { s with regT := subWord s.regT }

/-- The load of T with "the last 4 bytes of round key (r-1)", the first line of 42_key_schedule.md R114. -/
def loadT (r : Round) (s : State) : State := { s with regT := column s.rk[r.val - 1] 3 }

/-- Step 0 of the key-schedule machine, `RK[0] <- KEY_IN` (42_key_schedule.md R119). -/
def copyKey (key : Block) (s : State) : State := { s with rk := s.rk.set 0 key }

/-- KSROUND in the sequencer: P is RK[r-1], N is written to RK[r], and T holds the word in progress
(42_key_schedule.md R114). -/
def ksRoundOp (r : Round) (s : State) : State :=
  let p := s.rk[r.val - 1]
  { s with
    regT := transformWord r.val (column p 3)
    rk := s.rk.set r.val (ksRound r.val p) }

/-- The rounds of the expansion, in order (42_key_schedule.md R119). -/
def expandRounds : List Round := [1, 2, 3, 4, 5, 6, 7, 8, 9, 10]

/-- One step of the key-schedule machine (42_key_schedule.md R119). -/
def expandStep (s : State) (r : Round) : State := ksRoundOp r { s with round := r }

/-- EXPAND in the sequencer: the eleven steps of 42_key_schedule.md R119, after which ROUND "holds no value again" (log 10). -/
def expandOp (key : Block) (s : State) : State :=
  dropRound (expandRounds.foldl expandStep (copyKey key { s with round := 0 }))

/-- ROTWORD (42_key_schedule.md R111). -/
def execRotword (s : State) : Host.Outcome State Fault Refusal := .next (rotWordOp s)

/-- SUBWORD (42_key_schedule.md R112). -/
def execSubword (s : State) : Host.Outcome State Fault Refusal := .next (subWordOp s)

/-- RCON: the round constant as result (42_key_schedule.md R113). -/
def execRcon (r : BitVec 4) (s : State) : Host.Outcome State Fault Refusal :=
  withRoundIndex 1 r fun i => { s with result := .byte (rcon i.val) }

/-- KSROUND (42_key_schedule.md R114). -/
def execKsround (r : BitVec 4) (s : State) : Host.Outcome State Fault Refusal :=
  withRoundIndex 1 r fun i => ksRoundOp i s

/-- EXPAND on KEY_IN (42_key_schedule.md R115): a wrong length raises InvalidKeySize before any round key is written;
an absent KEY_IN is a missing operand (log 8). -/
def execExpand (s : State) : Host.Outcome State Fault Refusal :=
  .next (onKeyIn expandOp s)

end Sys2Proof.Machine
end

