-- ==== Sys2Proof/Machine/Commands.lean ====
section
/-! DEFINITION. The three commands and the reserved command (spec/46_cbc_commands.md section 3), each one atomic step of
the shape of R173. -/

namespace Sys2Proof.Machine

/-- INIT (46_cbc_commands.md R174): on success the whole context is replaced; a failed INIT changes only STATUS.ERR of what
persists (R175). -/
def initCommand (s : State) : State :=
  match s.keyIn with
  | none => raise .genericError s
  | some k =>
    match expand k with
    | .error e => raise e s
    | .ok rk => finish { s with key := toBlock k, rk := rk, ctxValid := true }

/-- ENCRYPT (46_cbc_commands.md R176): DATA_OUT is absent first and present, whole, last. -/
def encryptCommand (s : State) : State :=
  let s0 := { s with dataOut := none }
  match s0.cipherOperands with
  | none => raise .genericError s0
  | some (rk, iv, p) => finish { s0 with dataOut := some (cbcEnc rk iv p) }

/-- DECRYPT (46_cbc_commands.md R177): DATA_OUT is absent first and present only after UNPAD has succeeded. -/
def decryptCommand (s : State) : State :=
  let s0 := { s with dataOut := none }
  match s0.cipherOperands with
  | none => raise .genericError s0
  | some (rk, iv, c) =>
    match cbcDec rk iv c with
    | .error e => raise e s0
    | .ok d => finish { s0 with dataOut := some d }

/-- A reserved command code (46_cbc_commands.md R178). -/
def reservedCommand (s : State) : State := raise .genericError s

/-- INIT (46_cbc_commands.md R174, R175). -/
def execInit (s : State) : Host.Outcome State Fault Refusal := .next (initCommand s)

/-- ENCRYPT (46_cbc_commands.md R176). -/
def execEncrypt (s : State) : Host.Outcome State Fault Refusal := .next (encryptCommand s)

/-- DECRYPT (46_cbc_commands.md R177). -/
def execDecrypt (s : State) : Host.Outcome State Fault Refusal := .next (decryptCommand s)

end Sys2Proof.Machine
end

