-- ==== Sys2Proof/Machine/Dispatch.lean ====
section
/-! DEFINITION. One arm per instruction. -/

namespace Sys2Proof.Machine

def exec (i : Instr) (s : State) : Host.Outcome State Fault Refusal :=
  match i with
  | .init => Sys2Proof.Machine.execInit s
  | .encrypt => Sys2Proof.Machine.execEncrypt s
  | .decrypt => Sys2Proof.Machine.execDecrypt s
  | .xtime => Sys2Proof.Machine.execXtime s
  | .gfmul => Sys2Proof.Machine.execGfmul s
  | .sbox => Sys2Proof.Machine.execSbox s
  | .invsbox => Sys2Proof.Machine.execInvsbox s
  | .rotword => Sys2Proof.Machine.execRotword s
  | .subword => Sys2Proof.Machine.execSubword s
  | .rcon r => Sys2Proof.Machine.execRcon r s
  | .ksround r => Sys2Proof.Machine.execKsround r s
  | .expand => Sys2Proof.Machine.execExpand s
  | .subbytes => Sys2Proof.Machine.execSubbytes s
  | .invsubbytes => Sys2Proof.Machine.execInvsubbytes s
  | .shiftrows => Sys2Proof.Machine.execShiftrows s
  | .invshiftrows => Sys2Proof.Machine.execInvshiftrows s
  | .mixcolumns => Sys2Proof.Machine.execMixcolumns s
  | .invmixcolumns => Sys2Proof.Machine.execInvmixcolumns s
  | .addroundkey r => Sys2Proof.Machine.execAddroundkey r s
  | .encryptblock => Sys2Proof.Machine.execEncryptblock s
  | .decryptblock => Sys2Proof.Machine.execDecryptblock s
  | .pad => Sys2Proof.Machine.execPad s
  | .unpad => Sys2Proof.Machine.execUnpad s
  | .cbcenc => Sys2Proof.Machine.execCbcenc s
  | .cbcdec => Sys2Proof.Machine.execCbcdec s

end Sys2Proof.Machine
end

