-- ==== Sys2Proof/Machine/HostPort.lean ====
section
/-! DEFINITION. What the HOST and the sequencer do to the CORE: the HOST's steps (30_encoding.md R80), the command step
(46_cbc_commands.md R173) and the sequencer's, an issued micro-operation among them. -/

namespace Sys2Proof.Machine

/-- A CMD write: the decoded command, or the reserved command (46_cbc_commands.md R173, R178). -/
def commandStep (c : CmdCode) (s : State) : Host.Outcome State Fault Refusal :=
  match decodeCmd c with
  | .ok i => exec i s
  | .error _ => .next (reservedCommand s)

/-- An issued micro-operation; a reserved code has no behaviour (30_encoding.md R76). -/
def uopStep (c : UopCode) (s : State) : Host.Outcome State Fault Refusal :=
  match decodeUop c with
  | .ok i => exec i s
  | .error _ => .refused .reservedMicroOp

/-- One step of the sequencer: a micro-operation it issues, or a move of its own (log 2, 24). -/
def sequencerStep (a : SeqStep) (s : State) : Host.Outcome State Fault Refusal :=
  match a with
  | .issue c => uopStep c s
  | .setRound r => .next { s with round := r }
  | .dropRound => .next (dropRound s)
  | .copyKey => .next (onKeyIn copyKey s)
  | .loadT r => .next (loadT r s)
  | .loadS b => .next { s with regS := b }

/-- A load within a capacity; one beyond it is not possible (20_memory.md R68). -/
def loadWithin (cap : Option Nat) (n : Nat) (s : State) : Host.Outcome State Fault Refusal :=
  if Config.fits cap n then .next s else .fault .loadBeyondCapacity

/-- One HOST step on a build with the given capacities (30_encoding.md R80). -/
def hostStep (caps : Config.Capacity) (h : HostStep) (s : State) : Host.Outcome State Fault Refusal :=
  match h with
  | .reset => .next (resetCore s)
  | .loadKey bytes => loadWithin caps.keyCap bytes.length (loadKey bytes s)
  | .loadIv iv => .next (loadIv iv s)
  | .loadData bytes => loadWithin caps.dataCap bytes.length (loadData bytes s)
  | .cmd code => commandStep code s
  | .readStatus => .next (yieldToHost (.status s.status) s)
  | .readOut => .next (yieldToHost (.out s.dataOut) s)

/-- One step on a build with the given capacities: a step of the running sequencer first, else the HOST's next step, else
the CORE is idle and nothing changes (log 1, 2). -/
def stepWith (caps : Config.Capacity) (s : State) : Host.Outcome State Fault Refusal :=
  match s.seq with
  | a :: rest => sequencerStep a { s with seq := rest }
  | [] =>
    match s.script with
    | h :: rest => hostStep caps h { s with script := rest }
    | [] => .next s

/-- The code is placed where the next step takes it from: a command as the HOST's next step with the sequencer idle, a
micro-operation as the next one issued (log 2). -/
def placeCode (c : Code) (s : State) : State :=
  match c with
  | .cmd code => { s with seq := [], script := .cmd code :: s.script }
  | .uop code => { s with seq := .issue code :: s.seq }

end Sys2Proof.Machine
end

