-- ==== Sys2Proof/Machine/Step.lean ====
section
/-! DEFINITION. The step of the machine, with the default capacities, and the placing of one table word. -/

namespace Sys2Proof.Machine

/-- One step: `stepWith` the default, unbounded capacities (00_scope.md R8). -/
def step (s : State) : Host.Outcome State Fault Refusal := stepWith Config.capacity s

/-- `s` with the table word where the next step fetches it; a word outside its code space is no code and places nothing
(log 2, 15). -/
def State.withFetchWord (s : State) (nbits w : Nat) : State :=
  match tableCode nbits w with
  | some c => placeCode c s
  | none => s

end Sys2Proof.Machine
end

