-- ==== Sys2Proof/Machine/Sequencer.lean ====
section
/-! DEFINITION. The sequencer's view of the commands: the steps it takes, loads and issued codes, for a key expansion and for
one block (42_key_schedule.md R119, 44_block_cipher_core.md R153, R154), and the commands run over the registers
(46_cbc_commands.md R181). Nothing here is needed by `step`, whose commands are atomic (00_scope.md R6); the statements say
that both views agree. -/

namespace Sys2Proof.Machine

/-- The code of a micro-operation; a command has none. -/
def uopCode (i : Instr) : Option UopCode :=
  match encode i with
  | .uop c => some c
  | .cmd _ => none

/-- Micro-operations issued in order. -/
def issue (is : List Instr) : List SeqStep := (is.filterMap uopCode).map .issue

/-- The encoded round index of a round. -/
def roundField (r : Round) : BitVec 4 := BitVec.ofNat 4 r.val

/-- The stages issued in state `r` of the encryption machine (44_block_cipher_core.md R153). -/
def encStages (r : Round) : List Instr :=
  if r.val = 0 then [.addroundkey (roundField r)]
  else if r.val = 10 then [.subbytes, .shiftrows, .addroundkey (roundField r)]
  else [.subbytes, .shiftrows, .mixcolumns, .addroundkey (roundField r)]

/-- The stages issued in state `r` of the decryption machine (44_block_cipher_core.md R154). -/
def decStages (r : Round) : List Instr :=
  if r.val = 10 then [.addroundkey (roundField r)]
  else if r.val = 0 then [.invshiftrows, .invsubbytes, .addroundkey (roundField r)]
  else [.invshiftrows, .invsubbytes, .addroundkey (roundField r), .invmixcolumns]

/-- ROUND as the encryption machine takes it, 0 to 10. -/
def upRounds : List Round := [0, 1, 2, 3, 4, 5, 6, 7, 8, 9, 10]

/-- State `r` of the encryption machine: ROUND is r and its stages are issued (44_block_cipher_core.md R153). -/
def encRoundSteps (r : Round) : List SeqStep := .setRound r :: issue (encStages r)

/-- State `r` of the decryption machine (44_block_cipher_core.md R154). -/
def decRoundSteps (r : Round) : List SeqStep := .setRound r :: issue (decStages r)

/-- The encryption machine on block `b`, from `load` to `done` (44_block_cipher_core.md R153). -/
def encryptBlockSteps (b : Block) : List SeqStep := .loadS b :: upRounds.flatMap encRoundSteps

/-- The decryption machine on block `b`, from `load` to `done` (44_block_cipher_core.md R154). -/
def decryptBlockSteps (b : Block) : List SeqStep := .loadS b :: upRounds.reverse.flatMap decRoundSteps

/-- The micro-operations issued in step `r` of the key-schedule machine (42_key_schedule.md R119). -/
def keyStages (r : Round) : List Instr :=
  [.rotword, .subword, .rcon (roundField r), .ksround (roundField r)]

/-- Step `r` of the key-schedule machine (42_key_schedule.md R119): ROUND is r, and T is loaded from RK[r-1], as "the order of
the micro-operations within a step is that of rule R114" has it, before ROTWORD reads it (70_reset_and_hazards.md R220).
DESIGN CHOICE, log 24: KSROUND then does the whole of R114 itself, from RK[r-1] again, so RK does not depend on the three issued
before it. -/
def keyRoundSteps (r : Round) : List SeqStep := .setRound r :: .loadT r :: issue (keyStages r)

/-- The key-schedule machine, from step 0 to its end (42_key_schedule.md R119). -/
def expandSteps : List SeqStep :=
  [.setRound 0, .copyKey] ++ expandRounds.flatMap keyRoundSteps ++ [.dropRound]

/-- INIT over the registers: EXPAND writes RK, then the context is valid (42_key_schedule.md R119). -/
def initBySequencer (s : State) : State :=
  onKeyIn (fun key s => finish { expandOp key s with key := key, ctxValid := true }) s

/-- What the sequencer does with the outcome of CBCENC or CBCDEC: publish the bytes to DATA_OUT, or raise. -/
def publish (s : State) : State :=
  match s.result with
  | .bytes x => finish { s with dataOut := some x }
  | .error e => raise e s
  | _ => raise .genericError s

/-- ENCRYPT over the registers (46_cbc_commands.md R181). -/
def encryptBySequencer (s : State) : State :=
  let s0 := { s with dataOut := none }
  match s0.cipherOperands with
  | none => raise .genericError s0
  | some (_, iv, d) => publish (cbcEncOp iv d s0)

/-- DECRYPT over the registers (46_cbc_commands.md R181). -/
def decryptBySequencer (s : State) : State :=
  let s0 := { s with dataOut := none }
  match s0.cipherOperands with
  | none => raise .genericError s0
  | some (_, iv, c) => publish (cbcDecOp iv c s0)

end Sys2Proof.Machine
end

