-- ==== Sys2Proof/Safety.lean ====
section
/-! DEFINITION. The terms the statements use: what persists between commands (10_state.md R44), what the HOST can see,
and the invariant of the states between commands (10_state.md R38). -/

namespace Sys2Proof.Machine

/-- The state that persists between commands (10_state.md R44). -/
structure Persistent where
  /-- KEY and RK when CTX_VALID = 1. -/
  context : Option (Block × Schedule)
  iv : Option Block
  keyIn : Option (List Byte)
  dataIn : Option (List Byte)
  dataOut : Option (List Byte)
  err : ErrField
deriving DecidableEq, Repr

/-- The persistent part of a state (10_state.md R44). -/
def State.persistent (s : State) : Persistent where
  context := bif s.ctxValid then some (s.key, s.rk) else none
  iv := s.iv
  keyIn := s.keyIn
  dataIn := s.dataIn
  dataOut := s.dataOut
  err := s.err

/-- The context and the operand slots: all that a command's outcome may depend on (46_cbc_commands.md R184). -/
def State.commandInputs (s : State) : Option (Block × Schedule) × Option Block × Option (List Byte) × Option (List Byte) :=
  (s.persistent.context, s.iv, s.keyIn, s.dataIn)

/-- The invariant of the states between commands: no micro-operation is outstanding; RK is the expansion of KEY
when there is a context (10_state.md R38 item 2); and a present DATA_OUT was made from a context, an IV and a DATA_IN,
which nothing but a reset takes away (R23, R29, R31, R32). -/
def State.Inv (s : State) : Prop :=
  s.seq = [] ∧
  (s.ctxValid = true → s.rk = schedule s.key) ∧
  (s.dataOut.isSome = true → s.ctxValid = true ∧ s.iv.isSome = true ∧ s.dataIn.isSome = true)

/-- The command code is one of ENCRYPT and DECRYPT, the two that own DATA_OUT (10_state.md R32). -/
def ownsDataOut (c : CmdCode) : Bool := c == 0x02 || c == 0x03

end Sys2Proof.Machine
end

