-- ==== Sys2Proof/Certificates/Slice0/Obligations.lean ====
section
/-! DEFINITION. The statements for the provers, one `def Obligations.<Name> : Prop` each; OBLIGATIONS.json gives for each its
rule of spec/. -/

open Sys2Proof Sys2Proof.Machine

/-! ### Encoding -/

/-- 30_encoding.md R75, R78: decoding the code of a well-formed instruction gives it back, with every round index the
encoding admits. -/
def Obligations.DecodeOfEncodeIsIdentity : Prop :=
  ∀ i : Instr, i.wellFormed = true → decode (encode i) = .ok i

/-- 30_encoding.md R78: each code has at most one meaning; a code that decodes is the code of a well-formed instruction, so
no two rows overlap. -/
def Obligations.EncodeOfDecodeIsIdentity : Prop :=
  ∀ (c : Code) (i : Instr), decode c = .ok i → i.wellFormed = true ∧ encode i = c

/-- 30_encoding.md R76: a micro-operation code that no well-formed instruction encodes to, among them RCON and KSROUND with
r = 0 or r > 10 and ADDROUNDKEY with r > 10, is refused by the decoder and has no behaviour; and every code in the sequences
the sequencer issues is that of a micro-operation. -/
def Obligations.ReservedMicroOperationsAreRefused : Prop :=
  (∀ (c : UopCode) (s : State), (∀ i : Instr, i.wellFormed = true → encode i ≠ .uop c) →
    (∃ e, decodeUop c = .error e) ∧ uopStep c s = .refused .reservedMicroOp) ∧
  (∀ (r : BitVec 4), r = 0 ∨ 10 < r.toNat →
    (∃ e, decodeUop (0x320#12 ||| r.setWidth 12) = .error e) ∧ (∃ e, decodeUop (0x330#12 ||| r.setWidth 12) = .error e)) ∧
  (∀ (r : BitVec 4), 10 < r.toNat → ∃ e, decodeUop (0x460#12 ||| r.setWidth 12) = .error e) ∧
  (∀ (b : Block) (c : UopCode), .issue c ∈ encryptBlockSteps b ++ decryptBlockSteps b ++ expandSteps →
    ∃ i : Instr, decodeUop c = .ok i ∧ i.wellFormed = true ∧ i.isCommand = false)

/-- A sanity statement: codes written out bit by bit from 30_encoding.md R72, R74 and R75 decode to the instruction they
stand for. -/
def Obligations.WrittenOutCodesDecode : Prop :=
  decodeCmd 0b00000001 = .ok .init ∧ decodeCmd 0b00000011 = .ok .decrypt ∧
  decodeUop 0b000100010000 = .ok .gfmul ∧ decodeUop 0b001000010000 = .ok .invsbox ∧
  decodeUop 0b001100111010 = .ok (.ksround 0b1010) ∧ decodeUop 0b010001100000 = .ok (.addroundkey 0b0000) ∧
  decodeUop 0b010100010000 = .ok .decryptblock ∧ decodeUop 0b011000000000 = .ok .pad ∧
  decodeUop 0b011100010000 = .ok .cbcdec

/-! ### GF(2^8) arithmetic and the substitution tables -/

/-- 40_gf_arithmetic.md R91: XTIME by its pseudocode, its code, and that it is a bijection on bytes. -/
def Obligations.XtimeIsShiftAndReduce : Prop :=
  (∀ a : Byte, xtime a = BitVec.ofNat 8 (2 * a.toNat) ^^^ (if 128 ≤ a.toNat then 0x1B#8 else 0x00#8)) ∧
  decodeUop 0x100 = .ok .xtime ∧ Function.Bijective xtime

/-- 40_gf_arithmetic.md R93: GFMUL is the polynomial product over the two-element field modulo x^8+x^4+x^3+x+1; a byte is
the polynomial of R90, of degree at most 7, so the remainder is unique. -/
def Obligations.GfmulIsPolynomialProduct : Prop :=
  let poly : Byte → Polynomial (ZMod 2) :=
    fun c => ∑ i ∈ Finset.range 8, if c.getLsbD i = true then Polynomial.X ^ i else 0
  let modulus : Polynomial (ZMod 2) :=
    Polynomial.X ^ 8 + Polynomial.X ^ 4 + Polynomial.X ^ 3 + Polynomial.X + 1
  ∀ a b : Byte, modulus ∣ poly a * poly b - poly (gfmul a b)

/-- 40_gf_arithmetic.md R94: the six laws, with the example inverses. -/
def Obligations.GfmulFieldLaws : Prop :=
  (∀ a b : Byte, gfmul a b = gfmul b a) ∧
  (∀ a b c : Byte, gfmul a (gfmul b c) = gfmul (gfmul a b) c) ∧
  (∀ a b c : Byte, gfmul a (b ^^^ c) = gfmul a b ^^^ gfmul a c) ∧
  (∀ a : Byte, gfmul a 0x01 = a ∧ gfmul a 0x00 = 0x00) ∧
  (∀ a b : Byte, gfmul a b = 0x00 → a = 0x00 ∨ b = 0x00) ∧
  (∀ a : Byte, a ≠ 0x00 → ∃! y : Byte, gfmul a y = 0x01) ∧
  gfmul 0x02 0x8D = 0x01 ∧ gfmul 0x03 0xF6 = 0x01 ∧ gfmul 0x53 0xCA = 0x01

/-- 41_substitution_tables.md R107: the two tables are permutations and inverse to each other, the forward one is the
derivation of R103, and there is no fixed point and no complement point. -/
def Obligations.SubstitutionTableLaws : Prop :=
  Function.Bijective sbox ∧ Function.Bijective invSbox ∧
  (∀ x : Byte, invSbox (sbox x) = x ∧ sbox (invSbox x) = x) ∧
  (∀ x y : Byte, (x ≠ 0x00 → gfmul x y = 0x01) → (x = 0x00 → y = 0x00) → sbox x = affine y) ∧
  (∀ x : Byte, sbox x ≠ x ∧ sbox x ≠ x ^^^ 0xFF ∧ invSbox x ≠ x)

/-- XTIME, GFMUL, SBOX, INVSBOX and RCON run in every state; the byte their function gives is the result and nothing else
changes. That arguments and result stand in ports of their own is the MODEL'S CHOICE (log 6). -/
def Obligations.ByteFunctionsReturnTheirValue : Prop :=
  (∀ s : State, exec .xtime s = .next { s with result := .byte (xtime s.argA) }) ∧
  (∀ s : State, exec .gfmul s = .next { s with result := .byte (gfmul s.argA s.argB) }) ∧
  (∀ s : State, exec .sbox s = .next { s with result := .byte (sbox s.argA) }) ∧
  (∀ s : State, exec .invsbox s = .next { s with result := .byte (invSbox s.argA) }) ∧
  (∀ (s : State) (r : BitVec 4), 1 ≤ r.toNat → r.toNat ≤ 10 →
    exec (.rcon r) s = .next { s with result := .byte (xtime^[r.toNat - 1] 0x01) })

/-! ### The key schedule -/

/-- 42_key_schedule.md R111 and R112: ROTWORD and SUBWORD act on T alone, with their codes and corner cases. -/
def Obligations.WordOperationsActOnT : Prop :=
  (∀ s : State, exec .rotword s = .next { s with regT := #v[s.regT[1], s.regT[2], s.regT[3], s.regT[0]] }) ∧
  (∀ s : State, exec .subword s =
    .next { s with regT := #v[sbox s.regT[0], sbox s.regT[1], sbox s.regT[2], sbox s.regT[3]] }) ∧
  (∀ w : Word, rotWord (rotWord (rotWord (rotWord w))) = w) ∧
  (∀ b : Byte, rotWord (Vector.replicate 4 b) = Vector.replicate 4 b) ∧
  (∀ w : Word, subWord (rotWord w) = rotWord (subWord w)) ∧
  subWord (Vector.replicate 4 0x00) = Vector.replicate 4 0x63 ∧ subWord (Vector.replicate 4 0xFF) = Vector.replicate 4 0x16 ∧
  decodeUop 0x300 = .ok .rotword ∧ decodeUop 0x310 = .ok .subword

/-- 42_key_schedule.md R114, with r the encoded round index (30_encoding.md R77) in states of any ROUND, which KSROUND leaves
alone: R114 and R119 say RK[ROUND-1] and RK[ROUND], and that the code's r is taken is the MODEL'S reading (log 11). KSROUND r
runs in every state; T holds the transformed word, RK[r] the new key, word 0 XORed
with the transformed word and each later word with the new word before it, and nothing else changes. -/
def Obligations.KeyRoundWritesRoundKey : Prop :=
  ∀ (s : State) (r : Round), 1 ≤ r.val →
    decodeUop (0x330#12 + BitVec.ofNat 12 r.val) = .ok (.ksround (roundField r)) ∧
    ∃ (t : Word) (n : Block),
      exec (.ksround (roundField r)) s = .next { s with regT := t, rk := s.rk.set r.val n } ∧
      let p := s.rk[r.val - 1]
      let c := ([0x01, 0x02, 0x04, 0x08, 0x10, 0x20, 0x40, 0x80, 0x1B, 0x36] : List Byte).getD (r.val - 1) 0x00
      t = #v[sbox p[13] ^^^ c, sbox p[14], sbox p[15], sbox p[12]] ∧
      (∀ i : Fin 4, n[i.val] = p[i.val] ^^^ t[i.val]) ∧
      (∀ (g : Fin 3) (i : Fin 4),
        n[4 * (g.val + 1) + i.val] = p[4 * (g.val + 1) + i.val] ^^^ n[4 * g.val + i.val])

/-- 42_key_schedule.md R115: EXPAND with a 16-byte KEY_IN writes the eleven round keys of the recursion and no other element
but T, ROUND and the free-value counter; with another length it raises InvalidKeySize and writes no round key. -/
def Obligations.ExpandWritesTheSchedule : Prop :=
  (∀ (s : State) (key : Block), s.keyIn = some key.toList →
    ∃ (rk : Schedule) (t : Word) (rd : Round) (n : Nat),
      exec .expand s = .next { s with rk := rk, regT := t, round := rd, free := n } ∧
      rk[0] = key ∧ ∀ r : Fin 10, rk[r.val + 1] = ksRound (r.val + 1) rk[r.val]) ∧
  (∀ (s : State) (k : List Byte), s.keyIn = some k → k.length ≠ 16 →
    ∃ t, exec .expand s = .next t ∧ t.err = .raised .invalidKeySize ∧ t.rk = s.rk) ∧
  decodeUop 0x340 = .ok .expand

/-- 42_key_schedule.md R116: the expansion as a recurrence on the 44 words. -/
def Obligations.FlatWordRecurrence : Prop :=
  ∀ key : Block,
    let w : Nat → Word := fun j => column ((schedule key)[j / 4]?.getD key) ⟨j % 4, Nat.mod_lt _ (by decide)⟩
    let g : Word → Nat → Word := fun v r =>
      let u := subWord (rotWord v)
      #v[u[0] ^^^ rcon r, u[1], u[2], u[3]]
    (∀ j : Nat, j < 4 → w j = column key ⟨j % 4, Nat.mod_lt _ (by decide)⟩) ∧
    ∀ j : Nat, 4 ≤ j → j ≤ 43 →
      w j = xorWord (w (j - 4)) (if j % 4 = 0 then g (w (j - 1)) (j / 4) else w (j - 1))

/-- 42_key_schedule.md R120: each step of the schedule can be undone word by word, and any single round key determines
the key. -/
def Obligations.ScheduleStepsCanBeUndone : Prop :=
  (∀ (r : Nat) (p : Block),
    let n := ksRound r p
    column p 3 = xorWord (column n 3) (column n 2) ∧
    column p 2 = xorWord (column n 2) (column n 1) ∧
    column p 1 = xorWord (column n 1) (column n 0) ∧
    column p 0 = xorWord (column n 0) (transformWord r (xorWord (column n 3) (column n 2)))) ∧
  (∀ (k k' : Block) (r : Round), (schedule k)[r.val] = (schedule k')[r.val] → k = k') ∧
  (∀ k k' : Block, schedule k = schedule k' → k = k')

/-- 42_key_schedule.md R118: EXPAND reads its argument and the tables only; whatever two states hold, in RK above all, the
same KEY_IN gives the same eleven round keys. -/
def Obligations.ExpandIsDeterministic : Prop :=
  ∀ (s s' t t' : State) (k : List Byte), s.keyIn = some k → s'.keyIn = some k → k.length = 16 →
    exec .expand s = .next t → exec .expand s' = .next t' → t.rk = t'.rk

/-- 42_key_schedule.md R119: the key-schedule machine, from the copy of KEY_IN to its end, each of its steps taken by the
machine's own step, writes the whole of RK, and besides it T, the result port, ROUND and the free-value counter; step r sets
ROUND, loads T and issues the four codes of the rule. 70_reset_and_hazards.md R220: the T that ROTWORD reads is the word of RK[r-1] just loaded, so the
RK, the T and the result left are the same whatever T and RK held before. That the sequencer's steps wait in `seq`, and that
it loads T itself and KSROUND does the work of R114 anew, is the MODEL'S CHOICE (log 2, 24). -/
def Obligations.IssuedKeyStagesExpand : Prop :=
  (∀ (s : State) (key : Block), s.keyIn = some key.toList →
    ∃ (rd : Round) (n : Nat),
      Host.Core.run core 63 { s with seq := expandSteps } =
        .next { s with
          rk := schedule key, regT := transformWord 10 (column (schedule key)[9] 3), result := .byte 0x36, round := rd,
          free := n, seq := [] }) ∧
  (∀ r : Round, 1 ≤ r.val →
    keyRoundSteps r = [.setRound r, .loadT r, .issue 0x300, .issue 0x310, .issue (0x320#12 + BitVec.ofNat 12 r.val),
      .issue (0x330#12 + BitVec.ofNat 12 r.val)]) ∧
  (∀ (s : State) (r : Round) (rest : List SeqStep), s.seq = .loadT r :: .issue 0x300 :: rest →
    let p := s.rk[r.val - 1]
    Host.Core.run core 2 s = .next { s with regT := #v[p[13], p[14], p[15], p[12]], seq := rest })

/-! ### The block transform stages -/

/-- 43_block_transform.md R126, R127: SUBBYTES and INVSUBBYTES replace each byte of S by its table entry and change
nothing else; no block is a fixed point of SUBBYTES; with the corner cases of both rules. -/
def Obligations.ByteSubstitutionStages : Prop :=
  (∀ s : State, ∃ b : Block, exec .subbytes s = .next { s with regS := b } ∧
    (∀ i : Fin 16, b[i.val] = sbox s.regS[i.val]) ∧ b ≠ s.regS) ∧
  (∀ s : State, ∃ b : Block, exec .invsubbytes s = .next { s with regS := b } ∧
    ∀ i : Fin 16, b[i.val] = invSbox s.regS[i.val]) ∧
  (subBytes (Vector.replicate 16 0x00) = Vector.replicate 16 0x63 ∧ subBytes (Vector.replicate 16 0xFF) = Vector.replicate 16 0x16 ∧
    invSubBytes (Vector.replicate 16 0x63) = Vector.replicate 16 0x00 ∧
    invSubBytes (Vector.replicate 16 0x00) = Vector.replicate 16 0x52) ∧
  decodeUop 0x400 = .ok .subbytes ∧ decodeUop 0x410 = .ok .invsubbytes

/-- 43_block_transform.md R128, R129: SHIFTROWS rotates row r of S left by r positions and INVSHIFTROWS right, and nothing
else changes; four applications give the identity, a block of four equal columns is unchanged, both agree on row 2 and row 0
does not move. -/
def Obligations.RowRotationStages : Prop :=
  (∀ s : State, ∃ b : Block, exec .shiftrows s = .next { s with regS := b } ∧
    ∀ r c : Fin 4, b[r.val + 4 * c.val] = s.regS[r.val + 4 * (c + r).val]) ∧
  (∀ s : State, ∃ b : Block, exec .invshiftrows s = .next { s with regS := b } ∧
    ∀ r c : Fin 4, b[r.val + 4 * c.val] = s.regS[r.val + 4 * (c - r).val]) ∧
  (∀ b : Block, shiftRows^[4] b = b ∧ invShiftRows^[4] b = b) ∧
  (∀ b : Block, (∀ c : Fin 4, column b c = column b 0) → shiftRows b = b ∧ invShiftRows b = b) ∧
  (∀ (b : Block) (c : Fin 4),
    (shiftRows b)[2 + 4 * c.val] = (invShiftRows b)[2 + 4 * c.val] ∧ (shiftRows b)[4 * c.val] = b[4 * c.val]) ∧
  decodeUop 0x420 = .ok .shiftrows ∧ decodeUop 0x430 = .ok .invshiftrows

/-- 43_block_transform.md R131, R132: the two column mixings written out for each column of S; they change S and COL only,
leave a column of four equal bytes unchanged, are linear, and their matrices are inverse. -/
def Obligations.ColumnMixingStages : Prop :=
  (∀ s : State, ∃ (b : Block) (col : Word), exec .mixcolumns s = .next { s with regS := b, regCol := col } ∧
    ∀ c : Fin 4,
      let a := column s.regS c
      column b c = #v[
        gfmul 2 a[0] ^^^ gfmul 3 a[1] ^^^ a[2] ^^^ a[3],
        a[0] ^^^ gfmul 2 a[1] ^^^ gfmul 3 a[2] ^^^ a[3],
        a[0] ^^^ a[1] ^^^ gfmul 2 a[2] ^^^ gfmul 3 a[3],
        gfmul 3 a[0] ^^^ a[1] ^^^ a[2] ^^^ gfmul 2 a[3]]) ∧
  (∀ s : State, ∃ (b : Block) (col : Word), exec .invmixcolumns s = .next { s with regS := b, regCol := col } ∧
    ∀ c : Fin 4,
      let a := column s.regS c
      column b c = #v[
        gfmul 14 a[0] ^^^ gfmul 11 a[1] ^^^ gfmul 13 a[2] ^^^ gfmul 9 a[3],
        gfmul 9 a[0] ^^^ gfmul 14 a[1] ^^^ gfmul 11 a[2] ^^^ gfmul 13 a[3],
        gfmul 13 a[0] ^^^ gfmul 9 a[1] ^^^ gfmul 14 a[2] ^^^ gfmul 11 a[3],
        gfmul 11 a[0] ^^^ gfmul 13 a[1] ^^^ gfmul 9 a[2] ^^^ gfmul 14 a[3]]) ∧
  (∀ v : Byte, matCol mix (Vector.replicate 4 v) = Vector.replicate 4 v ∧
    matCol invMix (Vector.replicate 4 v) = Vector.replicate 4 v) ∧
  (∀ a : Word, matCol invMix (matCol mix a) = a ∧ matCol mix (matCol invMix a) = a) ∧
  (∀ a b : Block, mixColumns (xorBlock a b) = xorBlock (mixColumns a) (mixColumns b) ∧
    invMixColumns (xorBlock a b) = xorBlock (invMixColumns a) (invMixColumns b)) ∧
  decodeUop 0x440 = .ok .mixcolumns ∧ decodeUop 0x450 = .ok .invmixcolumns

/-- 43_block_transform.md R133: ADDROUNDKEY r, for r in 0..10, XORs RK[r] into S and changes nothing else; it is
self-inverse. -/
def Obligations.AddRoundKeyStage : Prop :=
  (∀ (s : State) (r : Round),
    decodeUop (0x460#12 + BitVec.ofNat 12 r.val) = .ok (.addroundkey (roundField r)) ∧
    ∃ b : Block, exec (.addroundkey (roundField r)) s = .next { s with regS := b } ∧
      ∀ i : Fin 16, b[i.val] = s.regS[i.val] ^^^ s.rk[r.val][i.val]) ∧
  (∀ b k : Block, addRoundKey (addRoundKey b k) k = b) ∧
  (∀ b : Block, addRoundKey b (Vector.replicate 16 0x00) = b ∧ addRoundKey b b = Vector.replicate 16 0x00) ∧
  (∀ r : BitVec 4, 10 < r.toNat → ∃ e, decodeUop (0x460#12 ||| r.setWidth 12) = .error e)

/-- 43_block_transform.md R134: the four inverse pairs. -/
def Obligations.StageInversePairs : Prop :=
  ∀ b k : Block,
    (invSubBytes (subBytes b) = b ∧ subBytes (invSubBytes b) = b) ∧
    (invShiftRows (shiftRows b) = b ∧ shiftRows (invShiftRows b) = b) ∧
    (invMixColumns (mixColumns b) = b ∧ mixColumns (invMixColumns b) = b) ∧
    addRoundKey (addRoundKey b k) k = b

/-- 43_block_transform.md R135: byte substitution and row rotation commute. -/
def Obligations.SubstitutionAndRotationCommute : Prop :=
  ∀ b : Block, shiftRows (subBytes b) = subBytes (shiftRows b) ∧
    invShiftRows (invSubBytes b) = invSubBytes (invShiftRows b)

/-! ### The block cipher core -/

/-- 44_block_cipher_core.md R141: ENCRYPTBLOCK runs in every state, S goes through AddRoundKey 0, rounds 1 to 9 and a round
10 without column mixing, and nothing but S, COL and the sequencer's ROUND changes. -/
def Obligations.EncryptBlockRunsTenRounds : Prop :=
  decodeUop 0x500 = .ok .encryptblock ∧
  ∀ s : State, ∃ (f : Nat → Block) (col : Word) (rd : Round),
    f 0 = addRoundKey s.regS s.rk[0] ∧
    (∀ r : Fin 9, f (r.val + 1) = addRoundKey (mixColumns (shiftRows (subBytes (f r.val)))) s.rk[r.val + 1]) ∧
    exec .encryptblock s =
      .next { s with regS := addRoundKey (shiftRows (subBytes (f 9))) s.rk[10], regCol := col, round := rd }

/-- 44_block_cipher_core.md R142: DECRYPTBLOCK runs in every state, the exact mirror, and nothing but S, COL and the
sequencer's ROUND changes. -/
def Obligations.DecryptBlockRunsTheMirror : Prop :=
  decodeUop 0x510 = .ok .decryptblock ∧
  ∀ s : State, ∃ (f : Nat → Block) (col : Word) (rd : Round),
    f 10 = addRoundKey s.regS s.rk[10] ∧
    (∀ r : Fin 9, f (r.val + 1) = invMixColumns (addRoundKey (invSubBytes (invShiftRows (f (r.val + 2)))) s.rk[r.val + 1])) ∧
    exec .decryptblock s =
      .next { s with regS := addRoundKey (invSubBytes (invShiftRows (f 1))) s.rk[0], regCol := col, round := rd }

/-- 44_block_cipher_core.md R143: for every schedule and every block decryption undoes encryption and the converse; and so
for the two micro-operations on S. -/
def Obligations.BlockRoundTrip : Prop :=
  (∀ (rk : Schedule) (x : Block),
    decryptBlock (encryptBlock x rk) rk = x ∧ encryptBlock (decryptBlock x rk) rk = x) ∧
  (∀ s t u : State, exec .encryptblock s = .next t → exec .decryptblock t = .next u → u.regS = s.regS) ∧
  (∀ s t u : State, exec .decryptblock s = .next t → exec .encryptblock t = .next u → u.regS = s.regS)

/-- 44_block_cipher_core.md R146: for a fixed schedule ENCRYPTBLOCK is a bijection and DECRYPTBLOCK is its inverse. -/
def Obligations.EncryptBlockIsBijective : Prop :=
  ∀ rk : Schedule,
    Function.Bijective (fun x : Block => encryptBlock x rk) ∧
    Function.LeftInverse (fun x : Block => decryptBlock x rk) (fun x : Block => encryptBlock x rk) ∧
    Function.RightInverse (fun x : Block => decryptBlock x rk) (fun x : Block => encryptBlock x rk) ∧
    ∀ x y : Block, x ≠ y → encryptBlock x rk ≠ encryptBlock y rk

/-- 44_block_cipher_core.md R155: the machines of R153 and R154 on a block B, from the load of S to the end, each step taken
by the machine's own step, compute the functions of R141 and R142 of B, whatever S and ROUND held before, and change nothing
but S, COL and ROUND; and the micro-operations ENCRYPTBLOCK and DECRYPTBLOCK, which run those machines on S, compute the same.
That the sequencer's steps wait in `seq` is the MODEL'S CHOICE (log 2), and that ROUND is set by the sequencer and not by a
stage is its reading (log 11). -/
def Obligations.RoundMachinesComputeTheFunctions : Prop :=
  (∀ (s : State) (b : Block), ∃ col : Word,
    Host.Core.run core 52 { s with seq := encryptBlockSteps b } =
      .next { s with regS := encryptBlock b s.rk, regCol := col, round := 10, seq := [] }) ∧
  (∀ (s : State) (b : Block), ∃ col : Word,
    Host.Core.run core 52 { s with seq := decryptBlockSteps b } =
      .next { s with regS := decryptBlock b s.rk, regCol := col, round := 0, seq := [] }) ∧
  (∀ s : State, ∃ t, exec .encryptblock s = .next t ∧ t.regS = encryptBlock s.regS s.rk) ∧
  (∀ s : State, ∃ t, exec .decryptblock s = .next t ∧ t.regS = decryptBlock s.regS s.rk)

/-! ### Padding -/

/-- 45_padding.md R161: PAD writes to WORK the present DATA_IN followed by N bytes of value N, N = 16 - (len mod 16) in
1..16, and changes nothing else. -/
def Obligations.PadAppendsItsLength : Prop :=
  (∀ (s : State) (d : List Byte), s.dataIn = some d →
    exec .pad s = .next { s with
      work := d ++ List.replicate (16 - d.length % 16) (BitVec.ofNat 8 (16 - d.length % 16)) }) ∧
  (∀ d : List Byte, pad d = d ++ List.replicate (16 - d.length % 16) (BitVec.ofNat 8 (16 - d.length % 16))) ∧
  (∀ n : Nat, 1 ≤ 16 - n % 16 ∧ 16 - n % 16 ≤ 16) ∧
  decodeUop 0x600 = .ok .pad

/-- 45_padding.md R162: UNPAD succeeds exactly on a sequence whose length is a positive multiple of 16 and whose last L bytes
all have the value L, with L in 1..16, and gives the sequence without them; in every other case it fails with
InvalidPadding. UNPAD itself publishes nothing. -/
def Obligations.UnpadAcceptsExactlyPadding : Prop :=
  (∀ x d : List Byte, unpad x = .ok d ↔
    ∃ l : Nat, 1 ≤ l ∧ l ≤ 16 ∧ x.length ≠ 0 ∧ x.length % 16 = 0 ∧ x = d ++ List.replicate l (BitVec.ofNat 8 l)) ∧
  (∀ (x : List Byte) (e : ErrorKind), unpad x = .error e → e = .invalidPadding) ∧
  (∀ s t : State, exec .unpad s = .next t → t.dataOut = s.dataOut) ∧
  decodeUop 0x610 = .ok .unpad

/-- 45_padding.md R163: the five laws of padding, the second with the reading of 90_conflicts.md C1. -/
def Obligations.PaddingLaws : Prop :=
  (∀ d : List Byte, (pad d).length = d.length + 16 - d.length % 16 ∧ (pad d).length % 16 = 0 ∧
    1 ≤ (pad d).length - d.length ∧ (pad d).length - d.length ≤ 16 ∧ d.length < (pad d).length) ∧
  (∀ d : List Byte, (pad d).length =
    (if d.length % 16 = 0 then d.length else 16 * (d.length / 16 + 1)) + (if d.length % 16 = 0 then 16 else 0)) ∧
  (∀ d : List Byte, unpad (pad d) = .ok d) ∧
  (∀ x d : List Byte, unpad x = .ok d → pad d = x) ∧
  (∀ d d' : List Byte, pad d = pad d' → d = d')

/-- UNPAD on WORK: with valid padding the unpadded sequence is the result and nothing else changes; otherwise InvalidPadding
is raised. That the result stands in a port of its own and that a raise in a micro-operation ends its command at once are the
MODEL'S reading (log 6, 9). -/
def Obligations.UnpadReturnsOrRaises : Prop :=
  (∀ (s : State) (d : List Byte) (l : Nat), 1 ≤ l → l ≤ 16 → (d.length + l) % 16 = 0 →
    s.work = d ++ List.replicate l (BitVec.ofNat 8 l) →
    exec .unpad s = .next { s with result := .bytes d }) ∧
  (∀ s : State, (∀ (d : List Byte) (l : Nat), 1 ≤ l → l ≤ 16 → (d.length + l) % 16 = 0 →
      s.work ≠ d ++ List.replicate l (BitVec.ofNat 8 l)) →
    exec .unpad s = .next (raise .invalidPadding s))

/-! ### CBC -/

/-- 46_cbc_commands.md R171: CBCENC in closed form, block by block, with the length of the padded message. -/
def Obligations.CbcEncryptClosedForm : Prop :=
  (∀ (rk : Schedule) (iv : Block) (p : List Byte),
    let c := cbcEnc rk iv p
    c.length = p.length + 16 - p.length % 16 ∧
    ∀ k : Nat, k < c.length / 16 →
      blockAt c k = encryptBlock (xorBlock (blockAt (pad p) k) (if k = 0 then iv else blockAt c (k - 1))) rk) ∧
  decodeUop 0x700 = .ok .cbcenc

/-- 46_cbc_commands.md R172: CBCDEC fails with InvalidInputSize on an empty or misaligned ciphertext, whatever the key, the
IV and the bytes; otherwise it is UNPAD of the decrypted blocks, each XORed with the ciphertext block before it. -/
def Obligations.CbcDecryptClosedForm : Prop :=
  (∀ (rk : Schedule) (iv : Block) (c : List Byte), c.length = 0 ∨ c.length % 16 ≠ 0 →
    cbcDec rk iv c = .error .invalidInputSize) ∧
  (∀ (rk : Schedule) (iv : Block) (c : List Byte), c.length ≠ 0 → c.length % 16 = 0 →
    ∃ w : List Byte, w.length = c.length ∧
      (∀ k : Nat, k < c.length / 16 →
        blockAt w k = xorBlock (decryptBlock (blockAt c k) rk) (if k = 0 then iv else blockAt c (k - 1))) ∧
      cbcDec rk iv c = unpad w) ∧
  decodeUop 0x710 = .ok .cbcdec

/-- CBCENC and CBCDEC over the registers: with IV and DATA_IN present the functions of R171 and R172 on RK are the result, or
their error kind is raised, and besides the transients (and STATUS.ERR on an error) nothing changes. That the result stands in
a port of its own is the MODEL'S CHOICE (log 6). -/
def Obligations.CbcMicroOperationsComputeTheFunctions : Prop :=
  (∀ (s : State) (iv : Block) (d : List Byte), s.iv = some iv → s.dataIn = some d →
    ∃ (a b : Block) (col : Word) (rd : Round) (i n : Nat) (w : List Byte),
      exec .cbcenc s = .next { s with
        regS := a, regCv := b, regCol := col, round := rd, blk := i, nblk := n, work := w,
        result := .bytes (cbcEnc s.rk iv d) }) ∧
  (∀ (s : State) (iv : Block) (c p : List Byte), s.iv = some iv → s.dataIn = some c → cbcDec s.rk iv c = .ok p →
    ∃ (a b x : Block) (col : Word) (rd : Round) (i n : Nat) (w : List Byte),
      exec .cbcdec s = .next { s with
        regS := a, regCv := b, regNxt := x, regCol := col, round := rd, blk := i, nblk := n, work := w,
        result := .bytes p }) ∧
  (∀ (s : State) (iv : Block) (c : List Byte) (e : ErrorKind), s.iv = some iv → s.dataIn = some c →
    cbcDec s.rk iv c = .error e →
    ∃ t, exec .cbcdec s = .next t ∧ t.persistent = { s.persistent with err := .raised e } ∧ t.seq = [])

/-- A micro-operation whose operand slot is absent raises GenericError and changes nothing else that persists: the MODEL'S
reading of "missing/null arguments" for EXPAND, PAD, CBCENC and CBCDEC (log 8). -/
def Obligations.MissingOperandRaisesGenericError : Prop :=
  (∀ s : State, s.keyIn = none → exec .expand s = .next (raise .genericError s)) ∧
  (∀ s : State, s.dataIn = none → exec .pad s = .next (raise .genericError s)) ∧
  (∀ s : State, s.iv = none ∨ s.dataIn = none →
    exec .cbcenc s = .next (raise .genericError s) ∧ exec .cbcdec s = .next (raise .genericError s)) ∧
  (∀ s : State, (raise .genericError s).persistent = { s.persistent with err := .raised .genericError })

/-- 46_cbc_commands.md R179: decryption of an encryption gives the plaintext back, for every schedule, IV and plaintext, and
at command level under one context and one IV. -/
def Obligations.MessageRoundTrip : Prop :=
  (∀ (rk : Schedule) (iv : Block) (p : List Byte), cbcDec rk iv (cbcEnc rk iv p) = .ok p) ∧
  (∀ (s t u : State) (p : List Byte), s.ctxValid = true → s.iv.isSome = true → s.dataIn = some p →
    exec .encrypt s = .next t →
    ∃ c, t.dataOut = some c ∧
      (exec .decrypt (loadData c t) = .next u → u.dataOut = some p ∧ u.err = .ok))

/-- 46_cbc_commands.md R180: the length of a ciphertext, and the bounds of a successful decryption. -/
def Obligations.MessageLengths : Prop :=
  (∀ (rk : Schedule) (iv : Block) (p : List Byte),
    (cbcEnc rk iv p).length = p.length + 16 - p.length % 16 ∧ (cbcEnc rk iv p).length % 16 = 0 ∧
    0 < (cbcEnc rk iv p).length ∧ (p.length % 16 = 0 → (cbcEnc rk iv p).length = p.length + 16)) ∧
  (∀ (rk : Schedule) (iv : Block) (c p : List Byte), cbcDec rk iv c = .ok p →
    ∃ l : Nat, 1 ≤ l ∧ l ≤ 16 ∧ p.length = c.length - l ∧ c.length - 16 ≤ p.length ∧ p.length ≤ c.length - 1)

/-- 46_cbc_commands.md R182: whatever the change to the last block, of one bit or of more, the original plaintext is never
returned; and a change `d` of an earlier block, or of the IV, changes the decrypted next block by exactly `d` before
unpadding, changes the decryption of that earlier block itself, and leaves every other one. -/
def Obligations.TamperSensitivity : Prop :=
  (∀ (rk : Schedule) (iv : Block) (p c c' : List Byte), c = cbcEnc rk iv p → c'.length = c.length →
    c'.take (c.length - 16) = c.take (c.length - 16) → c' ≠ c → cbcDec rk iv c' ≠ .ok p) ∧
  (∀ (rk : Schedule) (iv d : Block) (c : List Byte), 0 < c.length → c.length % 16 = 0 →
    let w := cbcDecLoop rk c (c.length / 16) 0 iv
    let w' := cbcDecLoop rk c (c.length / 16) 0 (xorBlock iv d)
    blockAt w' 0 = xorBlock (blockAt w 0) d ∧
    ∀ k : Nat, 0 < k → k < c.length / 16 → blockAt w' k = blockAt w k) ∧
  (∀ (rk : Schedule) (iv d : Block) (c c' : List Byte) (j : Nat), c.length % 16 = 0 → c'.length = c.length →
    j + 1 < c.length / 16 → blockAt c' j = xorBlock (blockAt c j) d →
    (∀ k : Nat, k < c.length / 16 → k ≠ j → blockAt c' k = blockAt c k) →
    let w := cbcDecLoop rk c (c.length / 16) 0 iv
    let w' := cbcDecLoop rk c' (c.length / 16) 0 iv
    blockAt w' (j + 1) = xorBlock (blockAt w (j + 1)) d ∧
    (∀ k : Nat, k < c.length / 16 → k ≠ j → k ≠ j + 1 → blockAt w' k = blockAt w k) ∧
    (blockAt c' j ≠ blockAt c j → blockAt w' j ≠ blockAt w j))

/-! ### The commands -/

/-- 46_cbc_commands.md R174: INIT by the three cases of its pseudocode. On success KEY is KEY_IN, RK its expansion and
CTX_VALID 1; KEY_IN, IV, DATA_IN and DATA_OUT are not touched. -/
def Obligations.InitCreatesTheContext : Prop :=
  (∀ s : State, commandStep 0x01 s = exec .init s) ∧
  (∀ (s : State) (key : Block), s.keyIn = some key.toList →
    ∃ t, exec .init s = .next t ∧ t.key = key ∧
      t.rk[0] = key ∧ (∀ r : Fin 10, t.rk[r.val + 1] = ksRound (r.val + 1) t.rk[r.val]) ∧
      t.ctxValid = true ∧ t.err = .ok ∧ t.status.getLsbD 3 = true ∧
      t.keyIn = s.keyIn ∧ t.iv = s.iv ∧ t.dataIn = s.dataIn ∧ t.dataOut = s.dataOut) ∧
  (∀ s : State, s.keyIn = none → ∃ t, exec .init s = .next t ∧ t.err = .raised .genericError) ∧
  (∀ (s : State) (k : List Byte), s.keyIn = some k → k.length ≠ 16 →
    ∃ t, exec .init s = .next t ∧ t.err = .raised .invalidKeySize)

/-- 46_cbc_commands.md R175: an INIT that does not end with OK changes only STATUS.ERR; KEY, RK and CTX_VALID keep their
values. -/
def Obligations.FailedInitChangesOnlyErr : Prop :=
  ∀ s t : State, exec .init s = .next t → t.err ≠ .ok →
    t.key = s.key ∧ t.rk = s.rk ∧ t.ctxValid = s.ctxValid ∧ t.persistent = { s.persistent with err := t.err }

/-- 46_cbc_commands.md R176: ENCRYPT with a context, an IV and a DATA_IN of any length publishes CBCENC and ends with OK;
with one of them missing it ends with GenericError and DATA_OUT absent; nothing else that persists changes. -/
def Obligations.EncryptPublishesCbcenc : Prop :=
  (∀ s : State, commandStep 0x02 s = exec .encrypt s) ∧
  (∀ (s : State) (iv : Block) (d : List Byte), s.ctxValid = true → s.iv = some iv → s.dataIn = some d →
    ∃ t, exec .encrypt s = .next t ∧ t.key = s.key ∧ t.rk = s.rk ∧ t.ctxValid = s.ctxValid ∧
      t.persistent = { s.persistent with dataOut := some (cbcEnc s.rk iv d), err := .ok } ∧
      (cbcEnc s.rk iv d).length = d.length + 16 - d.length % 16 ∧ t.status.getLsbD 4 = true) ∧
  (∀ s : State, s.ctxValid = false ∨ s.iv = none ∨ s.dataIn = none →
    ∃ t, exec .encrypt s = .next t ∧ t.key = s.key ∧ t.rk = s.rk ∧ t.ctxValid = s.ctxValid ∧
      t.persistent = { s.persistent with dataOut := none, err := .raised .genericError } ∧ t.status.getLsbD 4 = false)

/-- 46_cbc_commands.md R177: DECRYPT publishes the plaintext of CBCDEC and ends with OK, or ends with CBCDEC's error kind, or
with GenericError when an operand is missing; after an error DATA_OUT is absent; nothing else that persists changes. -/
def Obligations.DecryptPublishesOrFailsClosed : Prop :=
  (∀ s : State, commandStep 0x03 s = exec .decrypt s) ∧
  (∀ (s : State) (iv : Block) (c p : List Byte), s.ctxValid = true → s.iv = some iv → s.dataIn = some c →
    cbcDec s.rk iv c = .ok p →
    ∃ t, exec .decrypt s = .next t ∧ t.key = s.key ∧ t.rk = s.rk ∧ t.ctxValid = s.ctxValid ∧
      t.persistent = { s.persistent with dataOut := some p, err := .ok } ∧ t.status.getLsbD 4 = true) ∧
  (∀ (s : State) (iv : Block) (c : List Byte) (e : ErrorKind), s.ctxValid = true → s.iv = some iv → s.dataIn = some c →
    cbcDec s.rk iv c = .error e →
    ∃ t, exec .decrypt s = .next t ∧ t.key = s.key ∧ t.rk = s.rk ∧ t.ctxValid = s.ctxValid ∧
      t.persistent = { s.persistent with dataOut := none, err := .raised e } ∧ t.status.getLsbD 4 = false) ∧
  (∀ s : State, s.ctxValid = false ∨ s.iv = none ∨ s.dataIn = none →
    ∃ t, exec .decrypt s = .next t ∧ t.key = s.key ∧ t.rk = s.rk ∧ t.ctxValid = s.ctxValid ∧
      t.persistent = { s.persistent with dataOut := none, err := .raised .genericError } ∧ t.status.getLsbD 4 = false)

/-- 46_cbc_commands.md R178, 30_encoding.md R73: every code but 0x01, 0x02 and 0x03 is a command step that sets STATUS.ERR to
GenericError and changes nothing else that persists, DATA_OUT included. -/
def Obligations.ReservedCommandChangesOnlyErr : Prop :=
  ∀ (c : CmdCode) (s : State), c ≠ 0x01 → c ≠ 0x02 → c ≠ 0x03 →
    ∃ t, commandStep c s = .next t ∧ t.key = s.key ∧ t.rk = s.rk ∧ t.ctxValid = s.ctxValid ∧
      t.persistent = { s.persistent with err := .raised .genericError } ∧
      t.status.extractLsb' 0 3 = 4#3 ∧ t.dataOut = s.dataOut

/-- 60_exceptions.md R195, but for item 6: what any error of any command leaves; and that no command code, whether it ends with
OK or an error, touches the HOST's script and record, two fields of the MODEL'S own (log 2, 13), so that bytes reach the HOST
by a READSTATUS or READOUT only. -/
def Obligations.ErrorEntryKeepsContextAndOperands : Prop :=
  (∀ (c : CmdCode) (s t : State), commandStep c s = .next t → t.script = s.script ∧ t.yielded = s.yielded) ∧
  ∀ (c : CmdCode) (s t : State) (e : ErrorKind), commandStep c s = .next t → t.err = .raised e →
    t.status.extractLsb' 0 3 = BitVec.ofNat 3 e.code ∧
    (ownsDataOut c = true → t.dataOut = none) ∧
    (ownsDataOut c = false → t.dataOut = s.dataOut) ∧
    t.key = s.key ∧ t.rk = s.rk ∧ t.ctxValid = s.ctxValid ∧
    t.keyIn = s.keyIn ∧ t.iv = s.iv ∧ t.dataIn = s.dataIn ∧ t.seq = []

/-- 60_exceptions.md R192, R194 and R198: the outcome of every command code, in the order of priority: GenericError, then
the size error, then InvalidPadding. -/
def Obligations.ErrorPriority : Prop :=
  ∀ (c : CmdCode) (s : State),
    ∃ t, commandStep c s = .next t ∧
      t.err =
        if c = 0x01 then
          match s.keyIn with
          | none => .raised .genericError
          | some k => if k.length ≠ 16 then .raised .invalidKeySize else .ok
        else if c = 0x02 ∨ c = 0x03 then
          match s.ctxValid, s.iv, s.dataIn with
          | true, some iv, some d =>
            if c = 0x02 then .ok
            else if d.length = 0 ∨ d.length % 16 ≠ 0 then .raised .invalidInputSize
            else
              match unpad (cbcDecLoop s.rk d (d.length / 16) 0 iv) with
              | .ok _ => .ok
              | .error _ => .raised .invalidPadding
          | _, _, _ => .raised .genericError
        else .raised .genericError

/-- 10_state.md R36: the fields of STATUS, its codes within 0..4, and who writes them: every command writes ERR (what it was
before has no effect on what STATUS shows), of the commands only a successful INIT changes CTX_VALID, and only ENCRYPT and
DECRYPT change OUT_PRESENT; reserved bits are never written, and a read of STATUS changes nothing that persists. That the byte
read stands in `yielded` is the MODEL'S CHOICE (log 13). -/
def Obligations.StatusRegisterFields : Prop :=
  (∀ s : State,
    s.status.extractLsb' 0 3 = BitVec.ofNat 3 s.err.code ∧ s.err.code ≤ 4 ∧
    s.status.getLsbD 3 = s.ctxValid ∧ s.status.getLsbD 4 = s.dataOut.isSome ∧ s.status.extractLsb' 5 3 = 0#3) ∧
  (ErrField.code .ok = 0 ∧ ErrField.code (.raised .invalidKeySize) = 1 ∧ ErrField.code (.raised .invalidInputSize) = 2 ∧
    ErrField.code (.raised .invalidPadding) = 3 ∧ ErrField.code (.raised .genericError) = 4) ∧
  (∀ (caps : Config.Capacity) (s : State),
    ∃ t, hostStep caps .readStatus s = .next t ∧ t.persistent = s.persistent ∧
      t.yielded = s.yielded ++ [.status s.status]) ∧
  (∀ (c : CmdCode) (s : State) (e : ErrField),
    ∃ t u, commandStep c s = .next t ∧ commandStep c { s with err := e } = .next u ∧ t.status = u.status) ∧
  (∀ (c : CmdCode) (s t : State), commandStep c s = .next t →
    (t.status.getLsbD 3 ≠ s.status.getLsbD 3 → c = 0x01 ∧ t.err = .ok) ∧
    (c = 0x01 → t.err = .ok → t.status.getLsbD 3 = true) ∧
    (t.status.getLsbD 4 ≠ s.status.getLsbD 4 → c = 0x02 ∨ c = 0x03) ∧
    (c = 0x02 ∨ c = 0x03 → (t.status.getLsbD 4 = true ↔ t.err = .ok)))

/-- 10_state.md R42: whatever step is taken between commands, but a RESET and a successful INIT, KEY, RK and CTX_VALID stay as
they are; and a successful INIT replaces the whole context in one step. -/
def Obligations.ContextIsOnlyReplacedWhole : Prop :=
  (∀ s t : State, s.seq = [] → step s = .next t →
    (∀ rest, s.script ≠ .reset :: rest) →
    (∀ rest, s.script = .cmd 0x01 :: rest → t.err ≠ .ok) →
    t.key = s.key ∧ t.rk = s.rk ∧ t.ctxValid = s.ctxValid) ∧
  (∀ s t : State, exec .init s = .next t → t.err = .ok →
    s.keyIn = some t.key.toList ∧ t.rk = schedule t.key ∧ t.ctxValid = true)

/-- 20_memory.md R67: no instruction, command or micro-operation, modifies an operand buffer, and only ENCRYPT and DECRYPT
write DATA_OUT. -/
def Obligations.OperandBuffersArePreserved : Prop :=
  ∀ (i : Instr) (s t : State), exec i s = .next t →
    t.keyIn = s.keyIn ∧ t.iv = s.iv ∧ t.dataIn = s.dataIn ∧
    (i ≠ .encrypt → i ≠ .decrypt → t.dataOut = s.dataOut)

/-- 10_state.md R40, over all micro-operations: none writes KEY, CTX_VALID or DATA_OUT, only KSROUND and EXPAND write RK, only
those that can raise write STATUS.ERR, and none reaches the HOST. -/
def Obligations.MicroOperationsStayInside : Prop :=
  ∀ (i : Instr) (s t : State), i.isCommand = false → exec i s = .next t →
    t.key = s.key ∧ t.ctxValid = s.ctxValid ∧ t.dataOut = s.dataOut ∧
    ((∀ r, i ≠ .ksround r) → i ≠ .expand → t.rk = s.rk) ∧
    (i ≠ .expand → i ≠ .pad → i ≠ .unpad → i ≠ .cbcenc → i ≠ .cbcdec →
      t.err = s.err ∧ t.seq = s.seq ∧ t.work = s.work ∧ t.free = s.free) ∧
    t.script = s.script ∧ t.yielded = s.yielded

/-- 46_cbc_commands.md R184: two states with the same context and operand slots, and the same DATA_OUT, agree on everything
that persists after the same command, whatever else they hold: STATUS.ERR, registers, WORK, free values (so no command reads
a transient another has left, nor KEY or RK without a context, 70_reset_and_hazards.md R220). -/
def Obligations.CommandIsFunctionOfItsInputs : Prop :=
  ∀ (c : CmdCode) (s s' : State), s.commandInputs = s'.commandInputs → s.dataOut = s'.dataOut →
    ∃ t t', commandStep c s = .next t ∧ commandStep c s' = .next t' ∧ t.persistent = t'.persistent

/-- 20_memory.md R59: the same command again gives the same STATUS and the same DATA_OUT, and no read of the HOST has a side
effect (the record of what it yields is the HOST's, log 13). -/
def Obligations.CommandsAreIdempotent : Prop :=
  (∀ (c : CmdCode) (s t u : State), commandStep c s = .next t → commandStep c t = .next u →
    u.status = t.status ∧ u.dataOut = t.dataOut) ∧
  (∀ (caps : Config.Capacity) (h : HostStep) (s : State), h = .readStatus ∨ h = .readOut →
    ∃ y, hostStep caps h s = .next { s with yielded := s.yielded ++ [y] })

/-- 70_reset_and_hazards.md R222: DATA_OUT after ENCRYPT or DECRYPT is present exactly when the command ended with OK; what
DECRYPT makes present is what UNPAD has accepted of the whole decrypted DATA_IN; and after a DECRYPT that UNPAD failed
STATUS is the same and DATA_OUT absent, whatever the decrypted bytes were. -/
def Obligations.DecryptionFailsClosed : Prop :=
  (∀ (c : CmdCode) (s t : State), ownsDataOut c = true → commandStep c s = .next t →
    (t.dataOut.isSome = true ↔ t.err = .ok)) ∧
  (∀ (s t : State) (p : List Byte), commandStep 0x03 s = .next t → t.dataOut = some p →
    ∃ (iv : Block) (c : List Byte), s.ctxValid = true ∧ s.iv = some iv ∧ s.dataIn = some c ∧
      c.length ≠ 0 ∧ c.length % 16 = 0 ∧ unpad (cbcDecLoop s.rk c (c.length / 16) 0 iv) = .ok p) ∧
  (∀ s s' t t' : State, exec .decrypt s = .next t → exec .decrypt s' = .next t' →
    t.err = .raised .invalidPadding → t'.err = .raised .invalidPadding →
    t.status = t'.status ∧ t.dataOut = none ∧ t'.dataOut = none)

/-- 46_cbc_commands.md R181, 42_key_schedule.md R119: the commands run over the registers, block by block and round by
round, leave everything that persists as the atomic commands leave it. That `step` runs the atomic view and the register view
stands beside it is the MODEL'S reading (log 17). -/
def Obligations.SequencerRefinesTheCommands : Prop :=
  ∀ s : State,
    (∃ t, exec .init s = .next t ∧ (initBySequencer s).persistent = t.persistent) ∧
    (∃ t, exec .encrypt s = .next t ∧ (encryptBySequencer s).persistent = t.persistent) ∧
    (∃ t, exec .decrypt s = .next t ∧ (decryptBySequencer s).persistent = t.persistent)

/-! ### The machine -/

/-- 70_reset_and_hazards.md R216, the values it gives: after reset, and after a RESET step in any state, there is no
context, every slot is absent and STATUS is 0x00. -/
def Obligations.ResetLeavesNoContext : Prop :=
  (State.reset.persistent =
    { context := none, iv := none, keyIn := none, dataIn := none, dataOut := none, err := .ok } ∧
    State.reset.status = 0x00 ∧ State.reset.seq = []) ∧
  (∀ (caps : Config.Capacity) (s : State), ∃ t, hostStep caps .reset s = .next t ∧
    t.persistent = State.reset.persistent ∧ t.ctxValid = false ∧ t.status = 0x00 ∧ t.seq = [] ∧
    t.script = s.script ∧ t.yielded = s.yielded)

/-- The invariant of the states between commands holds right after reset (10_state.md R38). -/
def Obligations.ResetMeetsTheInvariant : Prop := State.reset.Inv

/-- 10_state.md R38 item 2: from every state that meets the invariant every step leads to one that meets it: RK stays the
expansion of KEY whenever there is a context, and a present DATA_OUT has a context, an IV and a DATA_IN beside it. -/
def Obligations.StepKeepsTheInvariant : Prop :=
  ∀ s t : State, s.Inv → step s = .next t → t.Inv

/-- Between commands the machine never stops and always comes back to a state between commands: no error locks the CORE
(60_exceptions.md R200). With nothing to do it stays as it is, which is the MODEL'S CHOICE (log 1). -/
def Obligations.MachineNeverStopsBetweenCommands : Prop :=
  (∀ s : State, s.seq = [] → ∃ t, step s = .next t ∧ t.seq = []) ∧
  (∀ s : State, s.seq = [] → s.script = [] → step s = .next s)

/-- A step runs the decoded instruction: the command the HOST writes when the sequencer is idle, the micro-operation the
sequencer issued otherwise, and with `withFetchWord` exactly the table word's instruction. How codes wait to be run is the
MODEL'S CHOICE (log 2). -/
def Obligations.StepRunsTheDecodedInstruction : Prop :=
  (∀ (s : State) (c : CmdCode) (rest : List HostStep) (i : Instr),
    s.seq = [] → s.script = .cmd c :: rest → decodeCmd c = .ok i → step s = exec i { s with script := rest }) ∧
  (∀ (s : State) (c : UopCode) (rest : List SeqStep) (i : Instr),
    s.seq = .issue c :: rest → decodeUop c = .ok i → step s = exec i { s with seq := rest }) ∧
  (∀ (s : State) (nbits w : Nat) (i : Instr), decodeTableWord nbits w = some i →
    ∃ sq : List SeqStep, step (s.withFetchWord nbits w) = exec i { s with seq := sq } ∧ (8 < nbits → sq = s.seq))

/-- 30_encoding.md R80: the HOST's port accesses, with the value each read yields; a load replaces its slot whole and nothing
else changes; RESET gives the state of R41. That what a read yields stands in `yielded` is the MODEL'S CHOICE (log 13). -/
def Obligations.HostPortAccesses : Prop :=
  (∀ (caps : Config.Capacity) (s : State), ∃ t, hostStep caps .reset s = .next t ∧
    t.persistent = State.reset.persistent ∧ t.status = 0x00) ∧
  (∀ (s : State) (x : List Byte), hostStep Config.capacity (.loadKey x) s = .next { s with keyIn := some x }) ∧
  (∀ (s : State) (x : List Byte), hostStep Config.capacity (.loadData x) s = .next { s with dataIn := some x }) ∧
  (∀ (caps : Config.Capacity) (s : State) (iv : Block), hostStep caps (.loadIv iv) s = .next { s with iv := some iv }) ∧
  (∀ (caps : Config.Capacity) (s : State),
    hostStep caps .readStatus s = .next { s with yielded := s.yielded ++ [.status s.status] }) ∧
  (∀ (caps : Config.Capacity) (s : State),
    hostStep caps .readOut s = .next { s with yielded := s.yielded ++ [.out s.dataOut] }) ∧
  (∀ (caps : Config.Capacity) (s : State) (c : CmdCode), hostStep caps (.cmd c) s = commandStep c s)

/-- 20_memory.md R68: on a build with a finite DATA_CAP and KEY_CAP a load that fits is made and a longer one is not
possible, keys of up to 17 bytes always fit, with the default capacities every length fits; and what ENCRYPT publishes for a
DATA_IN that fits never exceeds OUT_CAP. -/
def Obligations.LoadsRespectCapacity : Prop :=
  (∀ (n m : Nat) (s : State) (x : List Byte),
    let caps : Config.Capacity := { dataCap := some n, keyCap := some m }
    (x.length ≤ n → hostStep caps (.loadData x) s = .next { s with dataIn := some x }) ∧
    (n < x.length → hostStep caps (.loadData x) s = .fault .loadBeyondCapacity) ∧
    (x.length ≤ m → hostStep caps (.loadKey x) s = .next { s with keyIn := some x }) ∧
    (m < x.length → hostStep caps (.loadKey x) s = .fault .loadBeyondCapacity)) ∧
  (∀ (caps : Config.Capacity) (s : State) (k : List Byte), caps.legal = true → k.length ≤ 17 →
    hostStep caps (.loadKey k) s = .next { s with keyIn := some k }) ∧
  (∀ (s : State) (x : List Byte), hostStep Config.capacity (.loadData x) s = .next { s with dataIn := some x }) ∧
  (∀ (caps : Config.Capacity) (rk : Schedule) (iv : Block) (p : List Byte),
    Config.fits caps.dataCap p.length = true → Config.fits caps.outCap (cbcEnc rk iv p).length = true)
end

