-- ==== Sys2Proof/Laws/Bytes.lean ====
section
/-! SUPPORT. Blocks, columns and buffers: what each operation of Machine/Ops.lean gives byte by byte. -/

namespace Sys2Proof.Machine

@[simp] theorem xorWord_getElem (a b : Word) (i : Nat) (h : i < 4) : (xorWord a b)[i] = a[i] ^^^ b[i] := by
  simp [xorWord]

@[simp] theorem xorBlock_getElem (a b : Block) (i : Nat) (h : i < 16) : (xorBlock a b)[i] = a[i] ^^^ b[i] := by
  simp [xorBlock]

theorem xorWord_cancel_right (a b : Word) : xorWord (xorWord a b) b = a := by
  ext1 i h
  simp

theorem xorBlock_cancel_right (a b : Block) : xorBlock (xorBlock a b) b = a := by
  ext1 i h
  simp

theorem xorBlock_comm (a b : Block) : xorBlock a b = xorBlock b a := by
  ext1 i h
  simp [BitVec.xor_comm]

theorem xorBlock_assoc (a b c : Block) : xorBlock (xorBlock a b) c = xorBlock a (xorBlock b c) := by
  ext1 i h
  simp [BitVec.xor_assoc]

@[simp] theorem column_getElem (b : Block) (c : Fin 4) (r : Nat) (h : r < 4) :
    (column b c)[r] = b[r + 4 * c.val] := by
  simp [column]

@[simp] theorem ofColumns_getElem (w : Fin 4 → Word) (i : Nat) (h : i < 16) :
    (ofColumns w)[i] = (w ⟨i / 4, by omega⟩)[i % 4] := by
  simp [ofColumns]

@[simp] theorem column_ofColumns (w : Fin 4 → Word) (c : Fin 4) : column (ofColumns w) c = w c := by
  ext1 i h
  have h1 : (i + 4 * c.val) / 4 = c.val := by omega
  have h2 : (i + 4 * c.val) % 4 = i := by omega
  simp [h1, h2]

theorem ofColumns_column (b : Block) : ofColumns (column b) = b := by
  ext1 i h
  have : i % 4 + 4 * (i / 4) = i := by omega
  simp [this]

/-- A block is its four columns. -/
theorem block_ext_columns (a b : Block) (h : ∀ c, column a c = column b c) : a = b := by
  rw [← ofColumns_column a, ← ofColumns_column b, funext h]

@[simp] theorem toBlock_toList (b : Block) : toBlock b.toList = b := by
  ext1 i h
  simp [toBlock]

theorem toList_toBlock (x : List Byte) (h : x.length = 16) : (toBlock x).toList = x := by
  apply List.ext_getElem
  · simp [h]
  · intro i h1 h2
    simp [toBlock, h2]

/-- Byte `i` of block `k` is byte `16k + i` of the message (20_memory.md R54). -/
theorem blockAt_getElem (x : List Byte) (k i : Nat) (hk : 16 * k + 16 ≤ x.length) (h : i < 16) :
    (blockAt x k)[i] = x[16 * k + i]'(by omega) := by
  have : 16 * k + i < x.length := by omega
  simp [blockAt, toBlock, memRead, this]

theorem blockAt_zero_append (b : Block) (x : List Byte) : blockAt (b.toList ++ x) 0 = b := by
  simp [blockAt, memRead]

theorem blockAt_succ_append (b : Block) (x : List Byte) (k : Nat) :
    blockAt (b.toList ++ x) (k + 1) = blockAt x k := by
  have h : (b.toList ++ x).drop (16 * (k + 1)) = x.drop (16 * k) := by
    rw [show 16 * (k + 1) = b.toList.length + 16 * k by simp; omega, ← List.drop_drop]
    simp
  simp only [blockAt, memRead, h]

end Sys2Proof.Machine
end

