-- ==== Sys2Proof/Laws/State.lean ====
section
/-! SUPPORT. One lemma per field for each named update of State, true by rfl: what the update writes, and that it leaves every
other field. -/

namespace Sys2Proof.Machine

/-! ### dropTransients -/

@[simp] theorem dropTransients_key (s : State) : (dropTransients s).key = s.key := rfl
@[simp] theorem dropTransients_rk (s : State) : (dropTransients s).rk = s.rk := rfl
@[simp] theorem dropTransients_ctxValid (s : State) : (dropTransients s).ctxValid = s.ctxValid := rfl
@[simp] theorem dropTransients_regS (s : State) : (dropTransients s).regS = Config.freeS s.free := rfl
@[simp] theorem dropTransients_regCv (s : State) : (dropTransients s).regCv = Config.freeCv s.free := rfl
@[simp] theorem dropTransients_regNxt (s : State) : (dropTransients s).regNxt = Config.freeNxt s.free := rfl
@[simp] theorem dropTransients_regT (s : State) : (dropTransients s).regT = Config.freeT s.free := rfl
@[simp] theorem dropTransients_regCol (s : State) : (dropTransients s).regCol = Config.freeCol s.free := rfl
@[simp] theorem dropTransients_round (s : State) : (dropTransients s).round = Config.freeRound s.free := rfl
@[simp] theorem dropTransients_blk (s : State) : (dropTransients s).blk = Config.freeBlk s.free := rfl
@[simp] theorem dropTransients_nblk (s : State) : (dropTransients s).nblk = Config.freeNblk s.free := rfl
@[simp] theorem dropTransients_work (s : State) : (dropTransients s).work = Config.freeWork s.free := rfl
@[simp] theorem dropTransients_iv (s : State) : (dropTransients s).iv = s.iv := rfl
@[simp] theorem dropTransients_keyIn (s : State) : (dropTransients s).keyIn = s.keyIn := rfl
@[simp] theorem dropTransients_dataIn (s : State) : (dropTransients s).dataIn = s.dataIn := rfl
@[simp] theorem dropTransients_dataOut (s : State) : (dropTransients s).dataOut = s.dataOut := rfl
@[simp] theorem dropTransients_err (s : State) : (dropTransients s).err = s.err := rfl
@[simp] theorem dropTransients_argA (s : State) : (dropTransients s).argA = Config.freeArgA s.free := rfl
@[simp] theorem dropTransients_argB (s : State) : (dropTransients s).argB = Config.freeArgB s.free := rfl
@[simp] theorem dropTransients_result (s : State) : (dropTransients s).result = s.result := rfl
@[simp] theorem dropTransients_seq (s : State) : (dropTransients s).seq = [] := rfl
@[simp] theorem dropTransients_script (s : State) : (dropTransients s).script = s.script := rfl
@[simp] theorem dropTransients_yielded (s : State) : (dropTransients s).yielded = s.yielded := rfl
@[simp] theorem dropTransients_free (s : State) : (dropTransients s).free = s.free + 1 := rfl

/-! ### raise -/

@[simp] theorem raise_key (e : ErrorKind) (s : State) : (raise e s).key = s.key := rfl
@[simp] theorem raise_rk (e : ErrorKind) (s : State) : (raise e s).rk = s.rk := rfl
@[simp] theorem raise_ctxValid (e : ErrorKind) (s : State) : (raise e s).ctxValid = s.ctxValid := rfl
@[simp] theorem raise_regS (e : ErrorKind) (s : State) : (raise e s).regS = Config.freeS s.free := rfl
@[simp] theorem raise_regCv (e : ErrorKind) (s : State) : (raise e s).regCv = Config.freeCv s.free := rfl
@[simp] theorem raise_regNxt (e : ErrorKind) (s : State) : (raise e s).regNxt = Config.freeNxt s.free := rfl
@[simp] theorem raise_regT (e : ErrorKind) (s : State) : (raise e s).regT = Config.freeT s.free := rfl
@[simp] theorem raise_regCol (e : ErrorKind) (s : State) : (raise e s).regCol = Config.freeCol s.free := rfl
@[simp] theorem raise_round (e : ErrorKind) (s : State) : (raise e s).round = Config.freeRound s.free := rfl
@[simp] theorem raise_blk (e : ErrorKind) (s : State) : (raise e s).blk = Config.freeBlk s.free := rfl
@[simp] theorem raise_nblk (e : ErrorKind) (s : State) : (raise e s).nblk = Config.freeNblk s.free := rfl
@[simp] theorem raise_work (e : ErrorKind) (s : State) : (raise e s).work = Config.freeWork s.free := rfl
@[simp] theorem raise_iv (e : ErrorKind) (s : State) : (raise e s).iv = s.iv := rfl
@[simp] theorem raise_keyIn (e : ErrorKind) (s : State) : (raise e s).keyIn = s.keyIn := rfl
@[simp] theorem raise_dataIn (e : ErrorKind) (s : State) : (raise e s).dataIn = s.dataIn := rfl
@[simp] theorem raise_dataOut (e : ErrorKind) (s : State) : (raise e s).dataOut = s.dataOut := rfl
@[simp] theorem raise_err (e : ErrorKind) (s : State) : (raise e s).err = .raised e := rfl
@[simp] theorem raise_argA (e : ErrorKind) (s : State) : (raise e s).argA = Config.freeArgA s.free := rfl
@[simp] theorem raise_argB (e : ErrorKind) (s : State) : (raise e s).argB = Config.freeArgB s.free := rfl
@[simp] theorem raise_result (e : ErrorKind) (s : State) : (raise e s).result = .error e := rfl
@[simp] theorem raise_seq (e : ErrorKind) (s : State) : (raise e s).seq = [] := rfl
@[simp] theorem raise_script (e : ErrorKind) (s : State) : (raise e s).script = s.script := rfl
@[simp] theorem raise_yielded (e : ErrorKind) (s : State) : (raise e s).yielded = s.yielded := rfl
@[simp] theorem raise_free (e : ErrorKind) (s : State) : (raise e s).free = s.free + 1 := rfl

/-! ### finish -/

@[simp] theorem finish_key (s : State) : (finish s).key = s.key := rfl
@[simp] theorem finish_rk (s : State) : (finish s).rk = s.rk := rfl
@[simp] theorem finish_ctxValid (s : State) : (finish s).ctxValid = s.ctxValid := rfl
@[simp] theorem finish_regS (s : State) : (finish s).regS = Config.freeS s.free := rfl
@[simp] theorem finish_regCv (s : State) : (finish s).regCv = Config.freeCv s.free := rfl
@[simp] theorem finish_regNxt (s : State) : (finish s).regNxt = Config.freeNxt s.free := rfl
@[simp] theorem finish_regT (s : State) : (finish s).regT = Config.freeT s.free := rfl
@[simp] theorem finish_regCol (s : State) : (finish s).regCol = Config.freeCol s.free := rfl
@[simp] theorem finish_round (s : State) : (finish s).round = Config.freeRound s.free := rfl
@[simp] theorem finish_blk (s : State) : (finish s).blk = Config.freeBlk s.free := rfl
@[simp] theorem finish_nblk (s : State) : (finish s).nblk = Config.freeNblk s.free := rfl
@[simp] theorem finish_work (s : State) : (finish s).work = Config.freeWork s.free := rfl
@[simp] theorem finish_iv (s : State) : (finish s).iv = s.iv := rfl
@[simp] theorem finish_keyIn (s : State) : (finish s).keyIn = s.keyIn := rfl
@[simp] theorem finish_dataIn (s : State) : (finish s).dataIn = s.dataIn := rfl
@[simp] theorem finish_dataOut (s : State) : (finish s).dataOut = s.dataOut := rfl
@[simp] theorem finish_err (s : State) : (finish s).err = .ok := rfl
@[simp] theorem finish_argA (s : State) : (finish s).argA = Config.freeArgA s.free := rfl
@[simp] theorem finish_argB (s : State) : (finish s).argB = Config.freeArgB s.free := rfl
@[simp] theorem finish_result (s : State) : (finish s).result = .none := rfl
@[simp] theorem finish_seq (s : State) : (finish s).seq = [] := rfl
@[simp] theorem finish_script (s : State) : (finish s).script = s.script := rfl
@[simp] theorem finish_yielded (s : State) : (finish s).yielded = s.yielded := rfl
@[simp] theorem finish_free (s : State) : (finish s).free = s.free + 1 := rfl

/-! ### resetCore -/

@[simp] theorem resetCore_key (s : State) : (resetCore s).key = Config.freeKey s.free := rfl
@[simp] theorem resetCore_rk (s : State) : (resetCore s).rk = Config.freeRk s.free := rfl
@[simp] theorem resetCore_ctxValid (s : State) : (resetCore s).ctxValid = false := rfl
@[simp] theorem resetCore_regS (s : State) : (resetCore s).regS = Config.freeS s.free := rfl
@[simp] theorem resetCore_regCv (s : State) : (resetCore s).regCv = Config.freeCv s.free := rfl
@[simp] theorem resetCore_regNxt (s : State) : (resetCore s).regNxt = Config.freeNxt s.free := rfl
@[simp] theorem resetCore_regT (s : State) : (resetCore s).regT = Config.freeT s.free := rfl
@[simp] theorem resetCore_regCol (s : State) : (resetCore s).regCol = Config.freeCol s.free := rfl
@[simp] theorem resetCore_round (s : State) : (resetCore s).round = Config.freeRound s.free := rfl
@[simp] theorem resetCore_blk (s : State) : (resetCore s).blk = Config.freeBlk s.free := rfl
@[simp] theorem resetCore_nblk (s : State) : (resetCore s).nblk = Config.freeNblk s.free := rfl
@[simp] theorem resetCore_work (s : State) : (resetCore s).work = Config.freeWork s.free := rfl
@[simp] theorem resetCore_iv (s : State) : (resetCore s).iv = none := rfl
@[simp] theorem resetCore_keyIn (s : State) : (resetCore s).keyIn = none := rfl
@[simp] theorem resetCore_dataIn (s : State) : (resetCore s).dataIn = none := rfl
@[simp] theorem resetCore_dataOut (s : State) : (resetCore s).dataOut = none := rfl
@[simp] theorem resetCore_err (s : State) : (resetCore s).err = .ok := rfl
@[simp] theorem resetCore_argA (s : State) : (resetCore s).argA = Config.freeArgA s.free := rfl
@[simp] theorem resetCore_argB (s : State) : (resetCore s).argB = Config.freeArgB s.free := rfl
@[simp] theorem resetCore_result (s : State) : (resetCore s).result = .none := rfl
@[simp] theorem resetCore_seq (s : State) : (resetCore s).seq = [] := rfl
@[simp] theorem resetCore_script (s : State) : (resetCore s).script = s.script := rfl
@[simp] theorem resetCore_yielded (s : State) : (resetCore s).yielded = s.yielded := rfl
@[simp] theorem resetCore_free (s : State) : (resetCore s).free = s.free + 1 := rfl

/-! ### loadKey -/

@[simp] theorem loadKey_key (x : List Byte) (s : State) : (loadKey x s).key = s.key := rfl
@[simp] theorem loadKey_rk (x : List Byte) (s : State) : (loadKey x s).rk = s.rk := rfl
@[simp] theorem loadKey_ctxValid (x : List Byte) (s : State) : (loadKey x s).ctxValid = s.ctxValid := rfl
@[simp] theorem loadKey_regS (x : List Byte) (s : State) : (loadKey x s).regS = s.regS := rfl
@[simp] theorem loadKey_regCv (x : List Byte) (s : State) : (loadKey x s).regCv = s.regCv := rfl
@[simp] theorem loadKey_regNxt (x : List Byte) (s : State) : (loadKey x s).regNxt = s.regNxt := rfl
@[simp] theorem loadKey_regT (x : List Byte) (s : State) : (loadKey x s).regT = s.regT := rfl
@[simp] theorem loadKey_regCol (x : List Byte) (s : State) : (loadKey x s).regCol = s.regCol := rfl
@[simp] theorem loadKey_round (x : List Byte) (s : State) : (loadKey x s).round = s.round := rfl
@[simp] theorem loadKey_blk (x : List Byte) (s : State) : (loadKey x s).blk = s.blk := rfl
@[simp] theorem loadKey_nblk (x : List Byte) (s : State) : (loadKey x s).nblk = s.nblk := rfl
@[simp] theorem loadKey_work (x : List Byte) (s : State) : (loadKey x s).work = s.work := rfl
@[simp] theorem loadKey_iv (x : List Byte) (s : State) : (loadKey x s).iv = s.iv := rfl
@[simp] theorem loadKey_keyIn (x : List Byte) (s : State) : (loadKey x s).keyIn = some x := rfl
@[simp] theorem loadKey_dataIn (x : List Byte) (s : State) : (loadKey x s).dataIn = s.dataIn := rfl
@[simp] theorem loadKey_dataOut (x : List Byte) (s : State) : (loadKey x s).dataOut = s.dataOut := rfl
@[simp] theorem loadKey_err (x : List Byte) (s : State) : (loadKey x s).err = s.err := rfl
@[simp] theorem loadKey_argA (x : List Byte) (s : State) : (loadKey x s).argA = s.argA := rfl
@[simp] theorem loadKey_argB (x : List Byte) (s : State) : (loadKey x s).argB = s.argB := rfl
@[simp] theorem loadKey_result (x : List Byte) (s : State) : (loadKey x s).result = s.result := rfl
@[simp] theorem loadKey_seq (x : List Byte) (s : State) : (loadKey x s).seq = s.seq := rfl
@[simp] theorem loadKey_script (x : List Byte) (s : State) : (loadKey x s).script = s.script := rfl
@[simp] theorem loadKey_yielded (x : List Byte) (s : State) : (loadKey x s).yielded = s.yielded := rfl
@[simp] theorem loadKey_free (x : List Byte) (s : State) : (loadKey x s).free = s.free := rfl

/-! ### loadIv -/

@[simp] theorem loadIv_key (x : Block) (s : State) : (loadIv x s).key = s.key := rfl
@[simp] theorem loadIv_rk (x : Block) (s : State) : (loadIv x s).rk = s.rk := rfl
@[simp] theorem loadIv_ctxValid (x : Block) (s : State) : (loadIv x s).ctxValid = s.ctxValid := rfl
@[simp] theorem loadIv_regS (x : Block) (s : State) : (loadIv x s).regS = s.regS := rfl
@[simp] theorem loadIv_regCv (x : Block) (s : State) : (loadIv x s).regCv = s.regCv := rfl
@[simp] theorem loadIv_regNxt (x : Block) (s : State) : (loadIv x s).regNxt = s.regNxt := rfl
@[simp] theorem loadIv_regT (x : Block) (s : State) : (loadIv x s).regT = s.regT := rfl
@[simp] theorem loadIv_regCol (x : Block) (s : State) : (loadIv x s).regCol = s.regCol := rfl
@[simp] theorem loadIv_round (x : Block) (s : State) : (loadIv x s).round = s.round := rfl
@[simp] theorem loadIv_blk (x : Block) (s : State) : (loadIv x s).blk = s.blk := rfl
@[simp] theorem loadIv_nblk (x : Block) (s : State) : (loadIv x s).nblk = s.nblk := rfl
@[simp] theorem loadIv_work (x : Block) (s : State) : (loadIv x s).work = s.work := rfl
@[simp] theorem loadIv_iv (x : Block) (s : State) : (loadIv x s).iv = some x := rfl
@[simp] theorem loadIv_keyIn (x : Block) (s : State) : (loadIv x s).keyIn = s.keyIn := rfl
@[simp] theorem loadIv_dataIn (x : Block) (s : State) : (loadIv x s).dataIn = s.dataIn := rfl
@[simp] theorem loadIv_dataOut (x : Block) (s : State) : (loadIv x s).dataOut = s.dataOut := rfl
@[simp] theorem loadIv_err (x : Block) (s : State) : (loadIv x s).err = s.err := rfl
@[simp] theorem loadIv_argA (x : Block) (s : State) : (loadIv x s).argA = s.argA := rfl
@[simp] theorem loadIv_argB (x : Block) (s : State) : (loadIv x s).argB = s.argB := rfl
@[simp] theorem loadIv_result (x : Block) (s : State) : (loadIv x s).result = s.result := rfl
@[simp] theorem loadIv_seq (x : Block) (s : State) : (loadIv x s).seq = s.seq := rfl
@[simp] theorem loadIv_script (x : Block) (s : State) : (loadIv x s).script = s.script := rfl
@[simp] theorem loadIv_yielded (x : Block) (s : State) : (loadIv x s).yielded = s.yielded := rfl
@[simp] theorem loadIv_free (x : Block) (s : State) : (loadIv x s).free = s.free := rfl

/-! ### loadData -/

@[simp] theorem loadData_key (x : List Byte) (s : State) : (loadData x s).key = s.key := rfl
@[simp] theorem loadData_rk (x : List Byte) (s : State) : (loadData x s).rk = s.rk := rfl
@[simp] theorem loadData_ctxValid (x : List Byte) (s : State) : (loadData x s).ctxValid = s.ctxValid := rfl
@[simp] theorem loadData_regS (x : List Byte) (s : State) : (loadData x s).regS = s.regS := rfl
@[simp] theorem loadData_regCv (x : List Byte) (s : State) : (loadData x s).regCv = s.regCv := rfl
@[simp] theorem loadData_regNxt (x : List Byte) (s : State) : (loadData x s).regNxt = s.regNxt := rfl
@[simp] theorem loadData_regT (x : List Byte) (s : State) : (loadData x s).regT = s.regT := rfl
@[simp] theorem loadData_regCol (x : List Byte) (s : State) : (loadData x s).regCol = s.regCol := rfl
@[simp] theorem loadData_round (x : List Byte) (s : State) : (loadData x s).round = s.round := rfl
@[simp] theorem loadData_blk (x : List Byte) (s : State) : (loadData x s).blk = s.blk := rfl
@[simp] theorem loadData_nblk (x : List Byte) (s : State) : (loadData x s).nblk = s.nblk := rfl
@[simp] theorem loadData_work (x : List Byte) (s : State) : (loadData x s).work = s.work := rfl
@[simp] theorem loadData_iv (x : List Byte) (s : State) : (loadData x s).iv = s.iv := rfl
@[simp] theorem loadData_keyIn (x : List Byte) (s : State) : (loadData x s).keyIn = s.keyIn := rfl
@[simp] theorem loadData_dataIn (x : List Byte) (s : State) : (loadData x s).dataIn = some x := rfl
@[simp] theorem loadData_dataOut (x : List Byte) (s : State) : (loadData x s).dataOut = s.dataOut := rfl
@[simp] theorem loadData_err (x : List Byte) (s : State) : (loadData x s).err = s.err := rfl
@[simp] theorem loadData_argA (x : List Byte) (s : State) : (loadData x s).argA = s.argA := rfl
@[simp] theorem loadData_argB (x : List Byte) (s : State) : (loadData x s).argB = s.argB := rfl
@[simp] theorem loadData_result (x : List Byte) (s : State) : (loadData x s).result = s.result := rfl
@[simp] theorem loadData_seq (x : List Byte) (s : State) : (loadData x s).seq = s.seq := rfl
@[simp] theorem loadData_script (x : List Byte) (s : State) : (loadData x s).script = s.script := rfl
@[simp] theorem loadData_yielded (x : List Byte) (s : State) : (loadData x s).yielded = s.yielded := rfl
@[simp] theorem loadData_free (x : List Byte) (s : State) : (loadData x s).free = s.free := rfl

/-! ### yieldToHost -/

@[simp] theorem yieldToHost_key (y : Yield) (s : State) : (yieldToHost y s).key = s.key := rfl
@[simp] theorem yieldToHost_rk (y : Yield) (s : State) : (yieldToHost y s).rk = s.rk := rfl
@[simp] theorem yieldToHost_ctxValid (y : Yield) (s : State) : (yieldToHost y s).ctxValid = s.ctxValid := rfl
@[simp] theorem yieldToHost_regS (y : Yield) (s : State) : (yieldToHost y s).regS = s.regS := rfl
@[simp] theorem yieldToHost_regCv (y : Yield) (s : State) : (yieldToHost y s).regCv = s.regCv := rfl
@[simp] theorem yieldToHost_regNxt (y : Yield) (s : State) : (yieldToHost y s).regNxt = s.regNxt := rfl
@[simp] theorem yieldToHost_regT (y : Yield) (s : State) : (yieldToHost y s).regT = s.regT := rfl
@[simp] theorem yieldToHost_regCol (y : Yield) (s : State) : (yieldToHost y s).regCol = s.regCol := rfl
@[simp] theorem yieldToHost_round (y : Yield) (s : State) : (yieldToHost y s).round = s.round := rfl
@[simp] theorem yieldToHost_blk (y : Yield) (s : State) : (yieldToHost y s).blk = s.blk := rfl
@[simp] theorem yieldToHost_nblk (y : Yield) (s : State) : (yieldToHost y s).nblk = s.nblk := rfl
@[simp] theorem yieldToHost_work (y : Yield) (s : State) : (yieldToHost y s).work = s.work := rfl
@[simp] theorem yieldToHost_iv (y : Yield) (s : State) : (yieldToHost y s).iv = s.iv := rfl
@[simp] theorem yieldToHost_keyIn (y : Yield) (s : State) : (yieldToHost y s).keyIn = s.keyIn := rfl
@[simp] theorem yieldToHost_dataIn (y : Yield) (s : State) : (yieldToHost y s).dataIn = s.dataIn := rfl
@[simp] theorem yieldToHost_dataOut (y : Yield) (s : State) : (yieldToHost y s).dataOut = s.dataOut := rfl
@[simp] theorem yieldToHost_err (y : Yield) (s : State) : (yieldToHost y s).err = s.err := rfl
@[simp] theorem yieldToHost_argA (y : Yield) (s : State) : (yieldToHost y s).argA = s.argA := rfl
@[simp] theorem yieldToHost_argB (y : Yield) (s : State) : (yieldToHost y s).argB = s.argB := rfl
@[simp] theorem yieldToHost_result (y : Yield) (s : State) : (yieldToHost y s).result = s.result := rfl
@[simp] theorem yieldToHost_seq (y : Yield) (s : State) : (yieldToHost y s).seq = s.seq := rfl
@[simp] theorem yieldToHost_script (y : Yield) (s : State) : (yieldToHost y s).script = s.script := rfl
@[simp] theorem yieldToHost_yielded (y : Yield) (s : State) : (yieldToHost y s).yielded = s.yielded ++ [y] := rfl
@[simp] theorem yieldToHost_free (y : Yield) (s : State) : (yieldToHost y s).free = s.free := rfl

/-! ### bindArgs -/

@[simp] theorem bindArgs_key (a b : Byte) (s : State) : (bindArgs a b s).key = s.key := rfl
@[simp] theorem bindArgs_rk (a b : Byte) (s : State) : (bindArgs a b s).rk = s.rk := rfl
@[simp] theorem bindArgs_ctxValid (a b : Byte) (s : State) : (bindArgs a b s).ctxValid = s.ctxValid := rfl
@[simp] theorem bindArgs_regS (a b : Byte) (s : State) : (bindArgs a b s).regS = s.regS := rfl
@[simp] theorem bindArgs_regCv (a b : Byte) (s : State) : (bindArgs a b s).regCv = s.regCv := rfl
@[simp] theorem bindArgs_regNxt (a b : Byte) (s : State) : (bindArgs a b s).regNxt = s.regNxt := rfl
@[simp] theorem bindArgs_regT (a b : Byte) (s : State) : (bindArgs a b s).regT = s.regT := rfl
@[simp] theorem bindArgs_regCol (a b : Byte) (s : State) : (bindArgs a b s).regCol = s.regCol := rfl
@[simp] theorem bindArgs_round (a b : Byte) (s : State) : (bindArgs a b s).round = s.round := rfl
@[simp] theorem bindArgs_blk (a b : Byte) (s : State) : (bindArgs a b s).blk = s.blk := rfl
@[simp] theorem bindArgs_nblk (a b : Byte) (s : State) : (bindArgs a b s).nblk = s.nblk := rfl
@[simp] theorem bindArgs_work (a b : Byte) (s : State) : (bindArgs a b s).work = s.work := rfl
@[simp] theorem bindArgs_iv (a b : Byte) (s : State) : (bindArgs a b s).iv = s.iv := rfl
@[simp] theorem bindArgs_keyIn (a b : Byte) (s : State) : (bindArgs a b s).keyIn = s.keyIn := rfl
@[simp] theorem bindArgs_dataIn (a b : Byte) (s : State) : (bindArgs a b s).dataIn = s.dataIn := rfl
@[simp] theorem bindArgs_dataOut (a b : Byte) (s : State) : (bindArgs a b s).dataOut = s.dataOut := rfl
@[simp] theorem bindArgs_err (a b : Byte) (s : State) : (bindArgs a b s).err = s.err := rfl
@[simp] theorem bindArgs_argA (a b : Byte) (s : State) : (bindArgs a b s).argA = a := rfl
@[simp] theorem bindArgs_argB (a b : Byte) (s : State) : (bindArgs a b s).argB = b := rfl
@[simp] theorem bindArgs_result (a b : Byte) (s : State) : (bindArgs a b s).result = s.result := rfl
@[simp] theorem bindArgs_seq (a b : Byte) (s : State) : (bindArgs a b s).seq = s.seq := rfl
@[simp] theorem bindArgs_script (a b : Byte) (s : State) : (bindArgs a b s).script = s.script := rfl
@[simp] theorem bindArgs_yielded (a b : Byte) (s : State) : (bindArgs a b s).yielded = s.yielded := rfl
@[simp] theorem bindArgs_free (a b : Byte) (s : State) : (bindArgs a b s).free = s.free := rfl

/-! ### dropRound -/

@[simp] theorem dropRound_key (s : State) : (dropRound s).key = s.key := rfl
@[simp] theorem dropRound_rk (s : State) : (dropRound s).rk = s.rk := rfl
@[simp] theorem dropRound_ctxValid (s : State) : (dropRound s).ctxValid = s.ctxValid := rfl
@[simp] theorem dropRound_regS (s : State) : (dropRound s).regS = s.regS := rfl
@[simp] theorem dropRound_regCv (s : State) : (dropRound s).regCv = s.regCv := rfl
@[simp] theorem dropRound_regNxt (s : State) : (dropRound s).regNxt = s.regNxt := rfl
@[simp] theorem dropRound_regT (s : State) : (dropRound s).regT = s.regT := rfl
@[simp] theorem dropRound_regCol (s : State) : (dropRound s).regCol = s.regCol := rfl
@[simp] theorem dropRound_round (s : State) : (dropRound s).round = Config.freeRound s.free := rfl
@[simp] theorem dropRound_blk (s : State) : (dropRound s).blk = s.blk := rfl
@[simp] theorem dropRound_nblk (s : State) : (dropRound s).nblk = s.nblk := rfl
@[simp] theorem dropRound_work (s : State) : (dropRound s).work = s.work := rfl
@[simp] theorem dropRound_iv (s : State) : (dropRound s).iv = s.iv := rfl
@[simp] theorem dropRound_keyIn (s : State) : (dropRound s).keyIn = s.keyIn := rfl
@[simp] theorem dropRound_dataIn (s : State) : (dropRound s).dataIn = s.dataIn := rfl
@[simp] theorem dropRound_dataOut (s : State) : (dropRound s).dataOut = s.dataOut := rfl
@[simp] theorem dropRound_err (s : State) : (dropRound s).err = s.err := rfl
@[simp] theorem dropRound_argA (s : State) : (dropRound s).argA = s.argA := rfl
@[simp] theorem dropRound_argB (s : State) : (dropRound s).argB = s.argB := rfl
@[simp] theorem dropRound_result (s : State) : (dropRound s).result = s.result := rfl
@[simp] theorem dropRound_seq (s : State) : (dropRound s).seq = s.seq := rfl
@[simp] theorem dropRound_script (s : State) : (dropRound s).script = s.script := rfl
@[simp] theorem dropRound_yielded (s : State) : (dropRound s).yielded = s.yielded := rfl
@[simp] theorem dropRound_free (s : State) : (dropRound s).free = s.free + 1 := rfl

/-! ### loadT -/

@[simp] theorem loadT_key (r : Round) (s : State) : (loadT r s).key = s.key := rfl
@[simp] theorem loadT_rk (r : Round) (s : State) : (loadT r s).rk = s.rk := rfl
@[simp] theorem loadT_ctxValid (r : Round) (s : State) : (loadT r s).ctxValid = s.ctxValid := rfl
@[simp] theorem loadT_regS (r : Round) (s : State) : (loadT r s).regS = s.regS := rfl
@[simp] theorem loadT_regCv (r : Round) (s : State) : (loadT r s).regCv = s.regCv := rfl
@[simp] theorem loadT_regNxt (r : Round) (s : State) : (loadT r s).regNxt = s.regNxt := rfl
@[simp] theorem loadT_regT (r : Round) (s : State) : (loadT r s).regT = column s.rk[r.val - 1] 3 := rfl
@[simp] theorem loadT_regCol (r : Round) (s : State) : (loadT r s).regCol = s.regCol := rfl
@[simp] theorem loadT_round (r : Round) (s : State) : (loadT r s).round = s.round := rfl
@[simp] theorem loadT_blk (r : Round) (s : State) : (loadT r s).blk = s.blk := rfl
@[simp] theorem loadT_nblk (r : Round) (s : State) : (loadT r s).nblk = s.nblk := rfl
@[simp] theorem loadT_work (r : Round) (s : State) : (loadT r s).work = s.work := rfl
@[simp] theorem loadT_iv (r : Round) (s : State) : (loadT r s).iv = s.iv := rfl
@[simp] theorem loadT_keyIn (r : Round) (s : State) : (loadT r s).keyIn = s.keyIn := rfl
@[simp] theorem loadT_dataIn (r : Round) (s : State) : (loadT r s).dataIn = s.dataIn := rfl
@[simp] theorem loadT_dataOut (r : Round) (s : State) : (loadT r s).dataOut = s.dataOut := rfl
@[simp] theorem loadT_err (r : Round) (s : State) : (loadT r s).err = s.err := rfl
@[simp] theorem loadT_argA (r : Round) (s : State) : (loadT r s).argA = s.argA := rfl
@[simp] theorem loadT_argB (r : Round) (s : State) : (loadT r s).argB = s.argB := rfl
@[simp] theorem loadT_result (r : Round) (s : State) : (loadT r s).result = s.result := rfl
@[simp] theorem loadT_seq (r : Round) (s : State) : (loadT r s).seq = s.seq := rfl
@[simp] theorem loadT_script (r : Round) (s : State) : (loadT r s).script = s.script := rfl
@[simp] theorem loadT_yielded (r : Round) (s : State) : (loadT r s).yielded = s.yielded := rfl
@[simp] theorem loadT_free (r : Round) (s : State) : (loadT r s).free = s.free := rfl

/-! ### copyKey -/

@[simp] theorem copyKey_key (key : Block) (s : State) : (copyKey key s).key = s.key := rfl
@[simp] theorem copyKey_rk (key : Block) (s : State) : (copyKey key s).rk = s.rk.set 0 key := rfl
@[simp] theorem copyKey_ctxValid (key : Block) (s : State) : (copyKey key s).ctxValid = s.ctxValid := rfl
@[simp] theorem copyKey_regS (key : Block) (s : State) : (copyKey key s).regS = s.regS := rfl
@[simp] theorem copyKey_regCv (key : Block) (s : State) : (copyKey key s).regCv = s.regCv := rfl
@[simp] theorem copyKey_regNxt (key : Block) (s : State) : (copyKey key s).regNxt = s.regNxt := rfl
@[simp] theorem copyKey_regT (key : Block) (s : State) : (copyKey key s).regT = s.regT := rfl
@[simp] theorem copyKey_regCol (key : Block) (s : State) : (copyKey key s).regCol = s.regCol := rfl
@[simp] theorem copyKey_round (key : Block) (s : State) : (copyKey key s).round = s.round := rfl
@[simp] theorem copyKey_blk (key : Block) (s : State) : (copyKey key s).blk = s.blk := rfl
@[simp] theorem copyKey_nblk (key : Block) (s : State) : (copyKey key s).nblk = s.nblk := rfl
@[simp] theorem copyKey_work (key : Block) (s : State) : (copyKey key s).work = s.work := rfl
@[simp] theorem copyKey_iv (key : Block) (s : State) : (copyKey key s).iv = s.iv := rfl
@[simp] theorem copyKey_keyIn (key : Block) (s : State) : (copyKey key s).keyIn = s.keyIn := rfl
@[simp] theorem copyKey_dataIn (key : Block) (s : State) : (copyKey key s).dataIn = s.dataIn := rfl
@[simp] theorem copyKey_dataOut (key : Block) (s : State) : (copyKey key s).dataOut = s.dataOut := rfl
@[simp] theorem copyKey_err (key : Block) (s : State) : (copyKey key s).err = s.err := rfl
@[simp] theorem copyKey_argA (key : Block) (s : State) : (copyKey key s).argA = s.argA := rfl
@[simp] theorem copyKey_argB (key : Block) (s : State) : (copyKey key s).argB = s.argB := rfl
@[simp] theorem copyKey_result (key : Block) (s : State) : (copyKey key s).result = s.result := rfl
@[simp] theorem copyKey_seq (key : Block) (s : State) : (copyKey key s).seq = s.seq := rfl
@[simp] theorem copyKey_script (key : Block) (s : State) : (copyKey key s).script = s.script := rfl
@[simp] theorem copyKey_yielded (key : Block) (s : State) : (copyKey key s).yielded = s.yielded := rfl
@[simp] theorem copyKey_free (key : Block) (s : State) : (copyKey key s).free = s.free := rfl

/-! ### rotWordOp -/

@[simp] theorem rotWordOp_key (s : State) : (rotWordOp s).key = s.key := rfl
@[simp] theorem rotWordOp_rk (s : State) : (rotWordOp s).rk = s.rk := rfl
@[simp] theorem rotWordOp_ctxValid (s : State) : (rotWordOp s).ctxValid = s.ctxValid := rfl
@[simp] theorem rotWordOp_regS (s : State) : (rotWordOp s).regS = s.regS := rfl
@[simp] theorem rotWordOp_regCv (s : State) : (rotWordOp s).regCv = s.regCv := rfl
@[simp] theorem rotWordOp_regNxt (s : State) : (rotWordOp s).regNxt = s.regNxt := rfl
@[simp] theorem rotWordOp_regT (s : State) : (rotWordOp s).regT = rotWord s.regT := rfl
@[simp] theorem rotWordOp_regCol (s : State) : (rotWordOp s).regCol = s.regCol := rfl
@[simp] theorem rotWordOp_round (s : State) : (rotWordOp s).round = s.round := rfl
@[simp] theorem rotWordOp_blk (s : State) : (rotWordOp s).blk = s.blk := rfl
@[simp] theorem rotWordOp_nblk (s : State) : (rotWordOp s).nblk = s.nblk := rfl
@[simp] theorem rotWordOp_work (s : State) : (rotWordOp s).work = s.work := rfl
@[simp] theorem rotWordOp_iv (s : State) : (rotWordOp s).iv = s.iv := rfl
@[simp] theorem rotWordOp_keyIn (s : State) : (rotWordOp s).keyIn = s.keyIn := rfl
@[simp] theorem rotWordOp_dataIn (s : State) : (rotWordOp s).dataIn = s.dataIn := rfl
@[simp] theorem rotWordOp_dataOut (s : State) : (rotWordOp s).dataOut = s.dataOut := rfl
@[simp] theorem rotWordOp_err (s : State) : (rotWordOp s).err = s.err := rfl
@[simp] theorem rotWordOp_argA (s : State) : (rotWordOp s).argA = s.argA := rfl
@[simp] theorem rotWordOp_argB (s : State) : (rotWordOp s).argB = s.argB := rfl
@[simp] theorem rotWordOp_result (s : State) : (rotWordOp s).result = s.result := rfl
@[simp] theorem rotWordOp_seq (s : State) : (rotWordOp s).seq = s.seq := rfl
@[simp] theorem rotWordOp_script (s : State) : (rotWordOp s).script = s.script := rfl
@[simp] theorem rotWordOp_yielded (s : State) : (rotWordOp s).yielded = s.yielded := rfl
@[simp] theorem rotWordOp_free (s : State) : (rotWordOp s).free = s.free := rfl

/-! ### subWordOp -/

@[simp] theorem subWordOp_key (s : State) : (subWordOp s).key = s.key := rfl
@[simp] theorem subWordOp_rk (s : State) : (subWordOp s).rk = s.rk := rfl
@[simp] theorem subWordOp_ctxValid (s : State) : (subWordOp s).ctxValid = s.ctxValid := rfl
@[simp] theorem subWordOp_regS (s : State) : (subWordOp s).regS = s.regS := rfl
@[simp] theorem subWordOp_regCv (s : State) : (subWordOp s).regCv = s.regCv := rfl
@[simp] theorem subWordOp_regNxt (s : State) : (subWordOp s).regNxt = s.regNxt := rfl
@[simp] theorem subWordOp_regT (s : State) : (subWordOp s).regT = subWord s.regT := rfl
@[simp] theorem subWordOp_regCol (s : State) : (subWordOp s).regCol = s.regCol := rfl
@[simp] theorem subWordOp_round (s : State) : (subWordOp s).round = s.round := rfl
@[simp] theorem subWordOp_blk (s : State) : (subWordOp s).blk = s.blk := rfl
@[simp] theorem subWordOp_nblk (s : State) : (subWordOp s).nblk = s.nblk := rfl
@[simp] theorem subWordOp_work (s : State) : (subWordOp s).work = s.work := rfl
@[simp] theorem subWordOp_iv (s : State) : (subWordOp s).iv = s.iv := rfl
@[simp] theorem subWordOp_keyIn (s : State) : (subWordOp s).keyIn = s.keyIn := rfl
@[simp] theorem subWordOp_dataIn (s : State) : (subWordOp s).dataIn = s.dataIn := rfl
@[simp] theorem subWordOp_dataOut (s : State) : (subWordOp s).dataOut = s.dataOut := rfl
@[simp] theorem subWordOp_err (s : State) : (subWordOp s).err = s.err := rfl
@[simp] theorem subWordOp_argA (s : State) : (subWordOp s).argA = s.argA := rfl
@[simp] theorem subWordOp_argB (s : State) : (subWordOp s).argB = s.argB := rfl
@[simp] theorem subWordOp_result (s : State) : (subWordOp s).result = s.result := rfl
@[simp] theorem subWordOp_seq (s : State) : (subWordOp s).seq = s.seq := rfl
@[simp] theorem subWordOp_script (s : State) : (subWordOp s).script = s.script := rfl
@[simp] theorem subWordOp_yielded (s : State) : (subWordOp s).yielded = s.yielded := rfl
@[simp] theorem subWordOp_free (s : State) : (subWordOp s).free = s.free := rfl

/-! ### subBytesOp -/

@[simp] theorem subBytesOp_key (s : State) : (subBytesOp s).key = s.key := rfl
@[simp] theorem subBytesOp_rk (s : State) : (subBytesOp s).rk = s.rk := rfl
@[simp] theorem subBytesOp_ctxValid (s : State) : (subBytesOp s).ctxValid = s.ctxValid := rfl
@[simp] theorem subBytesOp_regS (s : State) : (subBytesOp s).regS = subBytes s.regS := rfl
@[simp] theorem subBytesOp_regCv (s : State) : (subBytesOp s).regCv = s.regCv := rfl
@[simp] theorem subBytesOp_regNxt (s : State) : (subBytesOp s).regNxt = s.regNxt := rfl
@[simp] theorem subBytesOp_regT (s : State) : (subBytesOp s).regT = s.regT := rfl
@[simp] theorem subBytesOp_regCol (s : State) : (subBytesOp s).regCol = s.regCol := rfl
@[simp] theorem subBytesOp_round (s : State) : (subBytesOp s).round = s.round := rfl
@[simp] theorem subBytesOp_blk (s : State) : (subBytesOp s).blk = s.blk := rfl
@[simp] theorem subBytesOp_nblk (s : State) : (subBytesOp s).nblk = s.nblk := rfl
@[simp] theorem subBytesOp_work (s : State) : (subBytesOp s).work = s.work := rfl
@[simp] theorem subBytesOp_iv (s : State) : (subBytesOp s).iv = s.iv := rfl
@[simp] theorem subBytesOp_keyIn (s : State) : (subBytesOp s).keyIn = s.keyIn := rfl
@[simp] theorem subBytesOp_dataIn (s : State) : (subBytesOp s).dataIn = s.dataIn := rfl
@[simp] theorem subBytesOp_dataOut (s : State) : (subBytesOp s).dataOut = s.dataOut := rfl
@[simp] theorem subBytesOp_err (s : State) : (subBytesOp s).err = s.err := rfl
@[simp] theorem subBytesOp_argA (s : State) : (subBytesOp s).argA = s.argA := rfl
@[simp] theorem subBytesOp_argB (s : State) : (subBytesOp s).argB = s.argB := rfl
@[simp] theorem subBytesOp_result (s : State) : (subBytesOp s).result = s.result := rfl
@[simp] theorem subBytesOp_seq (s : State) : (subBytesOp s).seq = s.seq := rfl
@[simp] theorem subBytesOp_script (s : State) : (subBytesOp s).script = s.script := rfl
@[simp] theorem subBytesOp_yielded (s : State) : (subBytesOp s).yielded = s.yielded := rfl
@[simp] theorem subBytesOp_free (s : State) : (subBytesOp s).free = s.free := rfl

/-! ### invSubBytesOp -/

@[simp] theorem invSubBytesOp_key (s : State) : (invSubBytesOp s).key = s.key := rfl
@[simp] theorem invSubBytesOp_rk (s : State) : (invSubBytesOp s).rk = s.rk := rfl
@[simp] theorem invSubBytesOp_ctxValid (s : State) : (invSubBytesOp s).ctxValid = s.ctxValid := rfl
@[simp] theorem invSubBytesOp_regS (s : State) : (invSubBytesOp s).regS = invSubBytes s.regS := rfl
@[simp] theorem invSubBytesOp_regCv (s : State) : (invSubBytesOp s).regCv = s.regCv := rfl
@[simp] theorem invSubBytesOp_regNxt (s : State) : (invSubBytesOp s).regNxt = s.regNxt := rfl
@[simp] theorem invSubBytesOp_regT (s : State) : (invSubBytesOp s).regT = s.regT := rfl
@[simp] theorem invSubBytesOp_regCol (s : State) : (invSubBytesOp s).regCol = s.regCol := rfl
@[simp] theorem invSubBytesOp_round (s : State) : (invSubBytesOp s).round = s.round := rfl
@[simp] theorem invSubBytesOp_blk (s : State) : (invSubBytesOp s).blk = s.blk := rfl
@[simp] theorem invSubBytesOp_nblk (s : State) : (invSubBytesOp s).nblk = s.nblk := rfl
@[simp] theorem invSubBytesOp_work (s : State) : (invSubBytesOp s).work = s.work := rfl
@[simp] theorem invSubBytesOp_iv (s : State) : (invSubBytesOp s).iv = s.iv := rfl
@[simp] theorem invSubBytesOp_keyIn (s : State) : (invSubBytesOp s).keyIn = s.keyIn := rfl
@[simp] theorem invSubBytesOp_dataIn (s : State) : (invSubBytesOp s).dataIn = s.dataIn := rfl
@[simp] theorem invSubBytesOp_dataOut (s : State) : (invSubBytesOp s).dataOut = s.dataOut := rfl
@[simp] theorem invSubBytesOp_err (s : State) : (invSubBytesOp s).err = s.err := rfl
@[simp] theorem invSubBytesOp_argA (s : State) : (invSubBytesOp s).argA = s.argA := rfl
@[simp] theorem invSubBytesOp_argB (s : State) : (invSubBytesOp s).argB = s.argB := rfl
@[simp] theorem invSubBytesOp_result (s : State) : (invSubBytesOp s).result = s.result := rfl
@[simp] theorem invSubBytesOp_seq (s : State) : (invSubBytesOp s).seq = s.seq := rfl
@[simp] theorem invSubBytesOp_script (s : State) : (invSubBytesOp s).script = s.script := rfl
@[simp] theorem invSubBytesOp_yielded (s : State) : (invSubBytesOp s).yielded = s.yielded := rfl
@[simp] theorem invSubBytesOp_free (s : State) : (invSubBytesOp s).free = s.free := rfl

/-! ### shiftRowsOp -/

@[simp] theorem shiftRowsOp_key (s : State) : (shiftRowsOp s).key = s.key := by simp only [shiftRowsOp]
@[simp] theorem shiftRowsOp_rk (s : State) : (shiftRowsOp s).rk = s.rk := by simp only [shiftRowsOp]
@[simp] theorem shiftRowsOp_ctxValid (s : State) : (shiftRowsOp s).ctxValid = s.ctxValid := by simp only [shiftRowsOp]
@[simp] theorem shiftRowsOp_regS (s : State) : (shiftRowsOp s).regS = shiftRows s.regS := by simp only [shiftRowsOp]
@[simp] theorem shiftRowsOp_regCv (s : State) : (shiftRowsOp s).regCv = s.regCv := by simp only [shiftRowsOp]
@[simp] theorem shiftRowsOp_regNxt (s : State) : (shiftRowsOp s).regNxt = s.regNxt := by simp only [shiftRowsOp]
@[simp] theorem shiftRowsOp_regT (s : State) : (shiftRowsOp s).regT = s.regT := by simp only [shiftRowsOp]
@[simp] theorem shiftRowsOp_regCol (s : State) : (shiftRowsOp s).regCol = s.regCol := by simp only [shiftRowsOp]
@[simp] theorem shiftRowsOp_round (s : State) : (shiftRowsOp s).round = s.round := by simp only [shiftRowsOp]
@[simp] theorem shiftRowsOp_blk (s : State) : (shiftRowsOp s).blk = s.blk := by simp only [shiftRowsOp]
@[simp] theorem shiftRowsOp_nblk (s : State) : (shiftRowsOp s).nblk = s.nblk := by simp only [shiftRowsOp]
@[simp] theorem shiftRowsOp_work (s : State) : (shiftRowsOp s).work = s.work := by simp only [shiftRowsOp]
@[simp] theorem shiftRowsOp_iv (s : State) : (shiftRowsOp s).iv = s.iv := by simp only [shiftRowsOp]
@[simp] theorem shiftRowsOp_keyIn (s : State) : (shiftRowsOp s).keyIn = s.keyIn := by simp only [shiftRowsOp]
@[simp] theorem shiftRowsOp_dataIn (s : State) : (shiftRowsOp s).dataIn = s.dataIn := by simp only [shiftRowsOp]
@[simp] theorem shiftRowsOp_dataOut (s : State) : (shiftRowsOp s).dataOut = s.dataOut := by simp only [shiftRowsOp]
@[simp] theorem shiftRowsOp_err (s : State) : (shiftRowsOp s).err = s.err := by simp only [shiftRowsOp]
@[simp] theorem shiftRowsOp_argA (s : State) : (shiftRowsOp s).argA = s.argA := by simp only [shiftRowsOp]
@[simp] theorem shiftRowsOp_argB (s : State) : (shiftRowsOp s).argB = s.argB := by simp only [shiftRowsOp]
@[simp] theorem shiftRowsOp_result (s : State) : (shiftRowsOp s).result = s.result := by simp only [shiftRowsOp]
@[simp] theorem shiftRowsOp_seq (s : State) : (shiftRowsOp s).seq = s.seq := by simp only [shiftRowsOp]
@[simp] theorem shiftRowsOp_script (s : State) : (shiftRowsOp s).script = s.script := by simp only [shiftRowsOp]
@[simp] theorem shiftRowsOp_yielded (s : State) : (shiftRowsOp s).yielded = s.yielded := by simp only [shiftRowsOp]
@[simp] theorem shiftRowsOp_free (s : State) : (shiftRowsOp s).free = s.free := by simp only [shiftRowsOp]

/-! ### invShiftRowsOp -/

@[simp] theorem invShiftRowsOp_key (s : State) : (invShiftRowsOp s).key = s.key := by simp only [invShiftRowsOp]
@[simp] theorem invShiftRowsOp_rk (s : State) : (invShiftRowsOp s).rk = s.rk := by simp only [invShiftRowsOp]
@[simp] theorem invShiftRowsOp_ctxValid (s : State) : (invShiftRowsOp s).ctxValid = s.ctxValid := by simp only [invShiftRowsOp]
@[simp] theorem invShiftRowsOp_regS (s : State) : (invShiftRowsOp s).regS = invShiftRows s.regS := by simp only [invShiftRowsOp]
@[simp] theorem invShiftRowsOp_regCv (s : State) : (invShiftRowsOp s).regCv = s.regCv := by simp only [invShiftRowsOp]
@[simp] theorem invShiftRowsOp_regNxt (s : State) : (invShiftRowsOp s).regNxt = s.regNxt := by simp only [invShiftRowsOp]
@[simp] theorem invShiftRowsOp_regT (s : State) : (invShiftRowsOp s).regT = s.regT := by simp only [invShiftRowsOp]
@[simp] theorem invShiftRowsOp_regCol (s : State) : (invShiftRowsOp s).regCol = s.regCol := by simp only [invShiftRowsOp]
@[simp] theorem invShiftRowsOp_round (s : State) : (invShiftRowsOp s).round = s.round := by simp only [invShiftRowsOp]
@[simp] theorem invShiftRowsOp_blk (s : State) : (invShiftRowsOp s).blk = s.blk := by simp only [invShiftRowsOp]
@[simp] theorem invShiftRowsOp_nblk (s : State) : (invShiftRowsOp s).nblk = s.nblk := by simp only [invShiftRowsOp]
@[simp] theorem invShiftRowsOp_work (s : State) : (invShiftRowsOp s).work = s.work := by simp only [invShiftRowsOp]
@[simp] theorem invShiftRowsOp_iv (s : State) : (invShiftRowsOp s).iv = s.iv := by simp only [invShiftRowsOp]
@[simp] theorem invShiftRowsOp_keyIn (s : State) : (invShiftRowsOp s).keyIn = s.keyIn := by simp only [invShiftRowsOp]
@[simp] theorem invShiftRowsOp_dataIn (s : State) : (invShiftRowsOp s).dataIn = s.dataIn := by simp only [invShiftRowsOp]
@[simp] theorem invShiftRowsOp_dataOut (s : State) : (invShiftRowsOp s).dataOut = s.dataOut := by simp only [invShiftRowsOp]
@[simp] theorem invShiftRowsOp_err (s : State) : (invShiftRowsOp s).err = s.err := by simp only [invShiftRowsOp]
@[simp] theorem invShiftRowsOp_argA (s : State) : (invShiftRowsOp s).argA = s.argA := by simp only [invShiftRowsOp]
@[simp] theorem invShiftRowsOp_argB (s : State) : (invShiftRowsOp s).argB = s.argB := by simp only [invShiftRowsOp]
@[simp] theorem invShiftRowsOp_result (s : State) : (invShiftRowsOp s).result = s.result := by simp only [invShiftRowsOp]
@[simp] theorem invShiftRowsOp_seq (s : State) : (invShiftRowsOp s).seq = s.seq := by simp only [invShiftRowsOp]
@[simp] theorem invShiftRowsOp_script (s : State) : (invShiftRowsOp s).script = s.script := by simp only [invShiftRowsOp]
@[simp] theorem invShiftRowsOp_yielded (s : State) : (invShiftRowsOp s).yielded = s.yielded := by simp only [invShiftRowsOp]
@[simp] theorem invShiftRowsOp_free (s : State) : (invShiftRowsOp s).free = s.free := by simp only [invShiftRowsOp]

/-! ### mixColumnsOp -/

@[simp] theorem mixColumnsOp_key (s : State) : (mixColumnsOp s).key = s.key := by simp only [mixColumnsOp]
@[simp] theorem mixColumnsOp_rk (s : State) : (mixColumnsOp s).rk = s.rk := by simp only [mixColumnsOp]
@[simp] theorem mixColumnsOp_ctxValid (s : State) : (mixColumnsOp s).ctxValid = s.ctxValid := by simp only [mixColumnsOp]
@[simp] theorem mixColumnsOp_regS (s : State) : (mixColumnsOp s).regS = mixColumns s.regS := by simp only [mixColumnsOp]
@[simp] theorem mixColumnsOp_regCv (s : State) : (mixColumnsOp s).regCv = s.regCv := by simp only [mixColumnsOp]
@[simp] theorem mixColumnsOp_regNxt (s : State) : (mixColumnsOp s).regNxt = s.regNxt := by simp only [mixColumnsOp]
@[simp] theorem mixColumnsOp_regT (s : State) : (mixColumnsOp s).regT = s.regT := by simp only [mixColumnsOp]
@[simp] theorem mixColumnsOp_regCol (s : State) : (mixColumnsOp s).regCol = column s.regS 3 := by simp only [mixColumnsOp]
@[simp] theorem mixColumnsOp_round (s : State) : (mixColumnsOp s).round = s.round := by simp only [mixColumnsOp]
@[simp] theorem mixColumnsOp_blk (s : State) : (mixColumnsOp s).blk = s.blk := by simp only [mixColumnsOp]
@[simp] theorem mixColumnsOp_nblk (s : State) : (mixColumnsOp s).nblk = s.nblk := by simp only [mixColumnsOp]
@[simp] theorem mixColumnsOp_work (s : State) : (mixColumnsOp s).work = s.work := by simp only [mixColumnsOp]
@[simp] theorem mixColumnsOp_iv (s : State) : (mixColumnsOp s).iv = s.iv := by simp only [mixColumnsOp]
@[simp] theorem mixColumnsOp_keyIn (s : State) : (mixColumnsOp s).keyIn = s.keyIn := by simp only [mixColumnsOp]
@[simp] theorem mixColumnsOp_dataIn (s : State) : (mixColumnsOp s).dataIn = s.dataIn := by simp only [mixColumnsOp]
@[simp] theorem mixColumnsOp_dataOut (s : State) : (mixColumnsOp s).dataOut = s.dataOut := by simp only [mixColumnsOp]
@[simp] theorem mixColumnsOp_err (s : State) : (mixColumnsOp s).err = s.err := by simp only [mixColumnsOp]
@[simp] theorem mixColumnsOp_argA (s : State) : (mixColumnsOp s).argA = s.argA := by simp only [mixColumnsOp]
@[simp] theorem mixColumnsOp_argB (s : State) : (mixColumnsOp s).argB = s.argB := by simp only [mixColumnsOp]
@[simp] theorem mixColumnsOp_result (s : State) : (mixColumnsOp s).result = s.result := by simp only [mixColumnsOp]
@[simp] theorem mixColumnsOp_seq (s : State) : (mixColumnsOp s).seq = s.seq := by simp only [mixColumnsOp]
@[simp] theorem mixColumnsOp_script (s : State) : (mixColumnsOp s).script = s.script := by simp only [mixColumnsOp]
@[simp] theorem mixColumnsOp_yielded (s : State) : (mixColumnsOp s).yielded = s.yielded := by simp only [mixColumnsOp]
@[simp] theorem mixColumnsOp_free (s : State) : (mixColumnsOp s).free = s.free := by simp only [mixColumnsOp]

/-! ### invMixColumnsOp -/

@[simp] theorem invMixColumnsOp_key (s : State) : (invMixColumnsOp s).key = s.key := by simp only [invMixColumnsOp]
@[simp] theorem invMixColumnsOp_rk (s : State) : (invMixColumnsOp s).rk = s.rk := by simp only [invMixColumnsOp]
@[simp] theorem invMixColumnsOp_ctxValid (s : State) : (invMixColumnsOp s).ctxValid = s.ctxValid := by simp only [invMixColumnsOp]
@[simp] theorem invMixColumnsOp_regS (s : State) : (invMixColumnsOp s).regS = invMixColumns s.regS := by simp only [invMixColumnsOp]
@[simp] theorem invMixColumnsOp_regCv (s : State) : (invMixColumnsOp s).regCv = s.regCv := by simp only [invMixColumnsOp]
@[simp] theorem invMixColumnsOp_regNxt (s : State) : (invMixColumnsOp s).regNxt = s.regNxt := by simp only [invMixColumnsOp]
@[simp] theorem invMixColumnsOp_regT (s : State) : (invMixColumnsOp s).regT = s.regT := by simp only [invMixColumnsOp]
@[simp] theorem invMixColumnsOp_regCol (s : State) : (invMixColumnsOp s).regCol = column s.regS 3 := by simp only [invMixColumnsOp]
@[simp] theorem invMixColumnsOp_round (s : State) : (invMixColumnsOp s).round = s.round := by simp only [invMixColumnsOp]
@[simp] theorem invMixColumnsOp_blk (s : State) : (invMixColumnsOp s).blk = s.blk := by simp only [invMixColumnsOp]
@[simp] theorem invMixColumnsOp_nblk (s : State) : (invMixColumnsOp s).nblk = s.nblk := by simp only [invMixColumnsOp]
@[simp] theorem invMixColumnsOp_work (s : State) : (invMixColumnsOp s).work = s.work := by simp only [invMixColumnsOp]
@[simp] theorem invMixColumnsOp_iv (s : State) : (invMixColumnsOp s).iv = s.iv := by simp only [invMixColumnsOp]
@[simp] theorem invMixColumnsOp_keyIn (s : State) : (invMixColumnsOp s).keyIn = s.keyIn := by simp only [invMixColumnsOp]
@[simp] theorem invMixColumnsOp_dataIn (s : State) : (invMixColumnsOp s).dataIn = s.dataIn := by simp only [invMixColumnsOp]
@[simp] theorem invMixColumnsOp_dataOut (s : State) : (invMixColumnsOp s).dataOut = s.dataOut := by simp only [invMixColumnsOp]
@[simp] theorem invMixColumnsOp_err (s : State) : (invMixColumnsOp s).err = s.err := by simp only [invMixColumnsOp]
@[simp] theorem invMixColumnsOp_argA (s : State) : (invMixColumnsOp s).argA = s.argA := by simp only [invMixColumnsOp]
@[simp] theorem invMixColumnsOp_argB (s : State) : (invMixColumnsOp s).argB = s.argB := by simp only [invMixColumnsOp]
@[simp] theorem invMixColumnsOp_result (s : State) : (invMixColumnsOp s).result = s.result := by simp only [invMixColumnsOp]
@[simp] theorem invMixColumnsOp_seq (s : State) : (invMixColumnsOp s).seq = s.seq := by simp only [invMixColumnsOp]
@[simp] theorem invMixColumnsOp_script (s : State) : (invMixColumnsOp s).script = s.script := by simp only [invMixColumnsOp]
@[simp] theorem invMixColumnsOp_yielded (s : State) : (invMixColumnsOp s).yielded = s.yielded := by simp only [invMixColumnsOp]
@[simp] theorem invMixColumnsOp_free (s : State) : (invMixColumnsOp s).free = s.free := by simp only [invMixColumnsOp]

/-! ### addRoundKeyOp -/

@[simp] theorem addRoundKeyOp_key (r : Round) (s : State) : (addRoundKeyOp r s).key = s.key := rfl
@[simp] theorem addRoundKeyOp_rk (r : Round) (s : State) : (addRoundKeyOp r s).rk = s.rk := rfl
@[simp] theorem addRoundKeyOp_ctxValid (r : Round) (s : State) : (addRoundKeyOp r s).ctxValid = s.ctxValid := rfl
@[simp] theorem addRoundKeyOp_regS (r : Round) (s : State) : (addRoundKeyOp r s).regS = addRoundKey s.regS s.rk[r.val] := rfl
@[simp] theorem addRoundKeyOp_regCv (r : Round) (s : State) : (addRoundKeyOp r s).regCv = s.regCv := rfl
@[simp] theorem addRoundKeyOp_regNxt (r : Round) (s : State) : (addRoundKeyOp r s).regNxt = s.regNxt := rfl
@[simp] theorem addRoundKeyOp_regT (r : Round) (s : State) : (addRoundKeyOp r s).regT = s.regT := rfl
@[simp] theorem addRoundKeyOp_regCol (r : Round) (s : State) : (addRoundKeyOp r s).regCol = s.regCol := rfl
@[simp] theorem addRoundKeyOp_round (r : Round) (s : State) : (addRoundKeyOp r s).round = s.round := rfl
@[simp] theorem addRoundKeyOp_blk (r : Round) (s : State) : (addRoundKeyOp r s).blk = s.blk := rfl
@[simp] theorem addRoundKeyOp_nblk (r : Round) (s : State) : (addRoundKeyOp r s).nblk = s.nblk := rfl
@[simp] theorem addRoundKeyOp_work (r : Round) (s : State) : (addRoundKeyOp r s).work = s.work := rfl
@[simp] theorem addRoundKeyOp_iv (r : Round) (s : State) : (addRoundKeyOp r s).iv = s.iv := rfl
@[simp] theorem addRoundKeyOp_keyIn (r : Round) (s : State) : (addRoundKeyOp r s).keyIn = s.keyIn := rfl
@[simp] theorem addRoundKeyOp_dataIn (r : Round) (s : State) : (addRoundKeyOp r s).dataIn = s.dataIn := rfl
@[simp] theorem addRoundKeyOp_dataOut (r : Round) (s : State) : (addRoundKeyOp r s).dataOut = s.dataOut := rfl
@[simp] theorem addRoundKeyOp_err (r : Round) (s : State) : (addRoundKeyOp r s).err = s.err := rfl
@[simp] theorem addRoundKeyOp_argA (r : Round) (s : State) : (addRoundKeyOp r s).argA = s.argA := rfl
@[simp] theorem addRoundKeyOp_argB (r : Round) (s : State) : (addRoundKeyOp r s).argB = s.argB := rfl
@[simp] theorem addRoundKeyOp_result (r : Round) (s : State) : (addRoundKeyOp r s).result = s.result := rfl
@[simp] theorem addRoundKeyOp_seq (r : Round) (s : State) : (addRoundKeyOp r s).seq = s.seq := rfl
@[simp] theorem addRoundKeyOp_script (r : Round) (s : State) : (addRoundKeyOp r s).script = s.script := rfl
@[simp] theorem addRoundKeyOp_yielded (r : Round) (s : State) : (addRoundKeyOp r s).yielded = s.yielded := rfl
@[simp] theorem addRoundKeyOp_free (r : Round) (s : State) : (addRoundKeyOp r s).free = s.free := rfl

/-! ### ksRoundOp -/

@[simp] theorem ksRoundOp_key (r : Round) (s : State) : (ksRoundOp r s).key = s.key := rfl
@[simp] theorem ksRoundOp_rk (r : Round) (s : State) : (ksRoundOp r s).rk = s.rk.set r.val (ksRound r.val s.rk[r.val - 1]) := rfl
@[simp] theorem ksRoundOp_ctxValid (r : Round) (s : State) : (ksRoundOp r s).ctxValid = s.ctxValid := rfl
@[simp] theorem ksRoundOp_regS (r : Round) (s : State) : (ksRoundOp r s).regS = s.regS := rfl
@[simp] theorem ksRoundOp_regCv (r : Round) (s : State) : (ksRoundOp r s).regCv = s.regCv := rfl
@[simp] theorem ksRoundOp_regNxt (r : Round) (s : State) : (ksRoundOp r s).regNxt = s.regNxt := rfl
@[simp] theorem ksRoundOp_regT (r : Round) (s : State) : (ksRoundOp r s).regT = transformWord r.val (column s.rk[r.val - 1] 3) := rfl
@[simp] theorem ksRoundOp_regCol (r : Round) (s : State) : (ksRoundOp r s).regCol = s.regCol := rfl
@[simp] theorem ksRoundOp_round (r : Round) (s : State) : (ksRoundOp r s).round = s.round := rfl
@[simp] theorem ksRoundOp_blk (r : Round) (s : State) : (ksRoundOp r s).blk = s.blk := rfl
@[simp] theorem ksRoundOp_nblk (r : Round) (s : State) : (ksRoundOp r s).nblk = s.nblk := rfl
@[simp] theorem ksRoundOp_work (r : Round) (s : State) : (ksRoundOp r s).work = s.work := rfl
@[simp] theorem ksRoundOp_iv (r : Round) (s : State) : (ksRoundOp r s).iv = s.iv := rfl
@[simp] theorem ksRoundOp_keyIn (r : Round) (s : State) : (ksRoundOp r s).keyIn = s.keyIn := rfl
@[simp] theorem ksRoundOp_dataIn (r : Round) (s : State) : (ksRoundOp r s).dataIn = s.dataIn := rfl
@[simp] theorem ksRoundOp_dataOut (r : Round) (s : State) : (ksRoundOp r s).dataOut = s.dataOut := rfl
@[simp] theorem ksRoundOp_err (r : Round) (s : State) : (ksRoundOp r s).err = s.err := rfl
@[simp] theorem ksRoundOp_argA (r : Round) (s : State) : (ksRoundOp r s).argA = s.argA := rfl
@[simp] theorem ksRoundOp_argB (r : Round) (s : State) : (ksRoundOp r s).argB = s.argB := rfl
@[simp] theorem ksRoundOp_result (r : Round) (s : State) : (ksRoundOp r s).result = s.result := rfl
@[simp] theorem ksRoundOp_seq (r : Round) (s : State) : (ksRoundOp r s).seq = s.seq := rfl
@[simp] theorem ksRoundOp_script (r : Round) (s : State) : (ksRoundOp r s).script = s.script := rfl
@[simp] theorem ksRoundOp_yielded (r : Round) (s : State) : (ksRoundOp r s).yielded = s.yielded := rfl
@[simp] theorem ksRoundOp_free (r : Round) (s : State) : (ksRoundOp r s).free = s.free := rfl

end Sys2Proof.Machine
end

