-- ==== Sys2Proof/Laws/Cipher.lean ====
section
/-! SUPPORT. What one step of each round state machine does (44_block_cipher_core.md R153, R154), and what the two block
operations leave: S, COL and ROUND change and nothing else. -/

namespace Sys2Proof.Machine

theorem runSteps_succ (f : State → State) (n : Nat) (s : State) : runSteps f (n + 1) s = runSteps f n (f s) := rfl

theorem runSteps_one (f : State → State) (s : State) : runSteps f 1 s = f s := rfl

theorem runSteps_add (f : State → State) (m n : Nat) (s : State) :
    runSteps f (m + n) s = runSteps f n (runSteps f m s) := by
  induction m generalizing s with
  | zero => simp [runSteps]
  | succ m ih => rw [Nat.succ_add, runSteps_succ, ih, runSteps_succ]

/-! ### The encryption machine -/

/-- State 0 of R153. -/
theorem encStep_first (s : State) (h : s.round = 0) :
    encStep s = { s with regS := addRoundKey s.regS s.rk[0], round := 1 } := by
  simp only [encStep, h, addRoundKeyOp]
  simp

/-- States 1 to 9 of R153. -/
theorem encStep_inner (s : State) (h0 : s.round.val ≠ 0) (h10 : s.round.val ≠ 10) :
    encStep s = { s with
      regS := encRound s.rk s.regS s.round
      regCol := column (shiftRows (subBytes s.regS)) 3
      round := s.round + 1 } := by
  simp only [encStep, if_neg h0, if_neg h10, addRoundKeyOp, mixColumnsOp, shiftRowsOp, subBytesOp, encRound]

/-- State 10 of R153. -/
theorem encStep_last (s : State) (h : s.round = 10) :
    encStep s = { s with regS := addRoundKey (shiftRows (subBytes s.regS)) s.rk[10] } := by
  simp only [encStep, h, addRoundKeyOp, shiftRowsOp, subBytesOp]
  simp

/-- The machine over consecutive inner rounds `rs`, the first of which ROUND holds. -/
theorem runSteps_encStep_inner (rs : List Round) :
    ∀ s : State, rs.map Fin.val = List.range' s.round.val rs.length → 0 < s.round.val → s.round.val + rs.length ≤ 10 →
      ∃ c, runSteps encStep rs.length s = { s with
        regS := rs.foldl (encRound s.rk) s.regS, regCol := c, round := Fin.ofNat 11 (s.round.val + rs.length) } := by
  induction rs with
  | nil =>
    intro s _ _ _
    exact ⟨s.regCol, by simp [runSteps]⟩
  | cons r rs ih =>
    intro s hr h0 hle
    simp only [List.map_cons, List.length_cons, List.range'_succ, List.cons.injEq] at hr hle
    have hrs : s.round = r := Fin.ext hr.1.symm
    have hv : (s.round + 1).val = s.round.val + 1 := by
      rw [Fin.val_add_one_of_lt]
      rw [Fin.lt_def]
      simp [Fin.last]
      omega
    rw [List.length_cons, runSteps_succ, encStep_inner s (by omega) (by omega)]
    obtain ⟨c, hc⟩ := ih { s with
      regS := encRound s.rk s.regS s.round
      regCol := column (shiftRows (subBytes s.regS)) 3
      round := s.round + 1 } (by simpa [hv] using hr.2) (by simp [hv]) (by simp only [hv]; omega)
    refine ⟨c, ?_⟩
    rw [hc]
    simp only [hrs, List.foldl_cons]
    congr 2
    omega

/-- ENCRYPTBLOCK in the sequencer: S is the function's value, COL some column, ROUND 10. -/
theorem encryptBlockOp_eq (s : State) :
    ∃ c, encryptBlockOp s = { s with regS := encryptBlock s.regS s.rk, regCol := c, round := 10 } := by
  obtain ⟨c, hc⟩ := runSteps_encStep_inner innerRounds
    { s with regS := addRoundKey s.regS s.rk[0], round := 1 } rfl (by simp) (by simp [innerRounds])
  have e : encryptBlockOp s = encStep (runSteps encStep innerRounds.length
      { s with regS := addRoundKey s.regS s.rk[0], round := 1 }) := by
    show runSteps encStep (1 + (innerRounds.length + 1)) { s with round := 0 } = _
    rw [runSteps_add, runSteps_add, runSteps_one, runSteps_one, encStep_first { s with round := 0 } rfl]
  refine ⟨c, ?_⟩
  rw [e, hc, encStep_last]
  · simp [encryptBlock, innerRounds]
  · rfl

/-! ### The decryption machine -/

/-- State 10 of R154. -/
theorem decStep_first (s : State) (h : s.round = 10) :
    decStep s = { s with regS := addRoundKey s.regS s.rk[10], round := 9 } := by
  simp only [decStep, h, addRoundKeyOp]
  simp

/-- States 9 to 1 of R154. -/
theorem decStep_inner (s : State) (h0 : s.round.val ≠ 0) (h10 : s.round.val ≠ 10) :
    decStep s = { s with
      regS := decRound s.rk s.regS s.round
      regCol := column (addRoundKey (invSubBytes (invShiftRows s.regS)) s.rk[s.round.val]) 3
      round := s.round - 1 } := by
  simp only [decStep, if_neg h0, if_neg h10, addRoundKeyOp, invMixColumnsOp, invShiftRowsOp, invSubBytesOp, decRound]

/-- State 0 of R154. -/
theorem decStep_last (s : State) (h : s.round = 0) :
    decStep s = { s with regS := addRoundKey (invSubBytes (invShiftRows s.regS)) s.rk[0] } := by
  simp only [decStep, h, addRoundKeyOp, invShiftRowsOp, invSubBytesOp]
  simp

/-- The machine over consecutive falling inner rounds `rs`, the first of which ROUND holds. -/
theorem runSteps_decStep_inner (rs : List Round) :
    ∀ s : State, (∀ (k : Nat) (h : k < rs.length), rs[k].val + k = s.round.val ∧ 0 < rs[k].val ∧ rs[k].val < 10) →
      ∃ c, runSteps decStep rs.length s = { s with
        regS := rs.foldl (decRound s.rk) s.regS, regCol := c, round := Fin.ofNat 11 (s.round.val - rs.length) } := by
  induction rs with
  | nil =>
    intro s _
    exact ⟨s.regCol, by simp [runSteps]⟩
  | cons r rs ih =>
    intro s hr
    obtain ⟨hr0, h0, h10⟩ := hr 0 (by simp)
    simp only [List.getElem_cons_zero, Nat.add_zero] at hr0 h0 h10
    have hrs : s.round = r := Fin.ext hr0.symm
    have hv : (s.round - 1).val = s.round.val - 1 := by
      rw [Fin.sub_val_of_le (by rw [Fin.le_def]; simp; omega)]
      simp
    rw [List.length_cons, runSteps_succ, decStep_inner s (by omega) (by omega)]
    obtain ⟨c, hc⟩ := ih { s with
      regS := decRound s.rk s.regS s.round
      regCol := column (addRoundKey (invSubBytes (invShiftRows s.regS)) s.rk[s.round.val]) 3
      round := s.round - 1 } (by
        intro k h
        have := hr (k + 1) (by simpa using h)
        simp only [List.getElem_cons_succ] at this
        simp only [hv]
        omega)
    refine ⟨c, ?_⟩
    rw [hc]
    simp only [hrs, List.foldl_cons]
    congr 2
    omega

/-- DECRYPTBLOCK in the sequencer: S is the function's value, COL some column, ROUND 0. -/
theorem decryptBlockOp_eq (s : State) :
    ∃ c, decryptBlockOp s = { s with regS := decryptBlock s.regS s.rk, regCol := c, round := 0 } := by
  obtain ⟨c, hc⟩ := runSteps_decStep_inner innerRounds.reverse
    { s with regS := addRoundKey s.regS s.rk[10], round := 9 } (by simp only [innerRounds]; decide)
  have e : decryptBlockOp s = decStep (runSteps decStep innerRounds.reverse.length
      { s with regS := addRoundKey s.regS s.rk[10], round := 9 }) := by
    show runSteps decStep (1 + (innerRounds.reverse.length + 1)) { s with round := 10 } = _
    rw [runSteps_add, runSteps_add, runSteps_one, runSteps_one, decStep_first { s with round := 10 } rfl]
  refine ⟨c, ?_⟩
  rw [e, hc, decStep_last]
  · simp [decryptBlock, innerRounds]
  · rfl

end Sys2Proof.Machine
end

