-- ==== Sys2Proof/Laws/CbcLoops.lean ====
section
/-! SUPPORT. The block loops of CBC: the length of what they give, their blocks (46_cbc_commands.md R171, R172), and that the
loops over the registers (R181) compute them. -/

namespace Sys2Proof.Machine

/-! ### Lengths and blocks -/

theorem cbcEncLoop_length (rk : Schedule) (work : List Byte) (n k : Nat) (cv : Block) :
    (cbcEncLoop rk work n k cv).length = 16 * n := by
  induction n generalizing k cv with
  | zero => rfl
  | succ n ih => simp [cbcEncLoop, ih]; omega

theorem cbcDecLoop_length (rk : Schedule) (c : List Byte) (n k : Nat) (cv : Block) :
    (cbcDecLoop rk c n k cv).length = 16 * n := by
  induction n generalizing k cv with
  | zero => rfl
  | succ n ih => simp [cbcDecLoop, ih]; omega

/-- Block `j` of the CBCENC loop. -/
theorem blockAt_cbcEncLoop (rk : Schedule) (work : List Byte) (n k : Nat) (cv : Block) (j : Nat) (hj : j < n) :
    blockAt (cbcEncLoop rk work n k cv) j =
      encryptBlock (xorBlock (blockAt work (k + j))
        (if j = 0 then cv else blockAt (cbcEncLoop rk work n k cv) (j - 1))) rk := by
  induction n generalizing k cv j with
  | zero => omega
  | succ n ih =>
    rw [cbcEncLoop]
    cases j with
    | zero => rw [blockAt_zero_append]; rfl
    | succ j =>
      rw [blockAt_succ_append, ih _ _ _ (by omega), show k + 1 + j = k + (j + 1) by omega]
      cases j with
      | zero => simp [blockAt_zero_append]
      | succ j => simp [blockAt_succ_append]

/-- Block `j` of the CBCDEC loop. -/
theorem blockAt_cbcDecLoop (rk : Schedule) (c : List Byte) (n k : Nat) (cv : Block) (j : Nat) (hj : j < n) :
    blockAt (cbcDecLoop rk c n k cv) j =
      xorBlock (decryptBlock (blockAt c (k + j)) rk) (if j = 0 then cv else blockAt c (k + j - 1)) := by
  induction n generalizing k cv j with
  | zero => omega
  | succ n ih =>
    rw [cbcDecLoop]
    cases j with
    | zero => rw [blockAt_zero_append]; rfl
    | succ j =>
      rw [blockAt_succ_append, ih _ _ _ (by omega), show k + 1 + j = k + (j + 1) by omega]
      cases j with
      | zero => simp
      | succ j => simp

/-! ### The loops over the registers -/

/-- `n` iterations of the ENCRYPT loop: the output grows by the loop's value, BLK by `n`, and only S, CV, COL, ROUND
and BLK change. -/
theorem runBlocks_cbcEncStep (n : Nat) (s : State) (out : List Byte) :
    ∃ (a b : Block) (col : Word) (rd : Round),
      runBlocks cbcEncStep n (s, out) =
        ({ s with regS := a, regCv := b, regCol := col, round := rd, blk := s.blk + n },
          out ++ cbcEncLoop s.rk s.work n s.blk s.regCv) := by
  induction n generalizing s out with
  | zero => exact ⟨s.regS, s.regCv, s.regCol, s.round, by simp [runBlocks, cbcEncLoop]⟩
  | succ n ih =>
    obtain ⟨c, hc⟩ := encryptBlockOp_eq { s with regS := xorBlock (blockAt s.work s.blk) s.regCv }
    rw [runBlocks, cbcEncStep]
    simp only [hc]
    obtain ⟨a, b, col, rd, h⟩ := ih { s with
      regS := encryptBlock (xorBlock (blockAt s.work s.blk) s.regCv) s.rk
      regCv := encryptBlock (xorBlock (blockAt s.work s.blk) s.regCv) s.rk
      regCol := c
      round := 10
      blk := s.blk + 1 } (append out (encryptBlock (xorBlock (blockAt s.work s.blk) s.regCv) s.rk))
    refine ⟨a, b, col, rd, ?_⟩
    rw [h]
    simp only [cbcEncLoop, append, List.append_assoc, Nat.add_assoc, Nat.add_comm 1 n]

/-- `n` iterations of the DECRYPT loop: WORK grows by the loop's value, BLK by `n`, and only S, CV, NXT, COL, ROUND, BLK and
WORK change. -/
theorem runBlocks_cbcDecStep (ct : List Byte) (n : Nat) (s : State) :
    ∃ (a b x : Block) (col : Word) (rd : Round),
      runBlocks (cbcDecStep ct) n s =
        { s with
          regS := a, regCv := b, regNxt := x, regCol := col, round := rd, blk := s.blk + n
          work := s.work ++ cbcDecLoop s.rk ct n s.blk s.regCv } := by
  induction n generalizing s with
  | zero => exact ⟨s.regS, s.regCv, s.regNxt, s.regCol, s.round, by simp [runBlocks, cbcDecLoop]⟩
  | succ n ih =>
    obtain ⟨c, hc⟩ := decryptBlockOp_eq { s with regNxt := blockAt ct s.blk, regS := blockAt ct s.blk }
    rw [runBlocks, cbcDecStep]
    simp only [hc]
    obtain ⟨a, b, x, col, rd, h⟩ := ih { s with
      regS := xorBlock (decryptBlock (blockAt ct s.blk) s.rk) s.regCv
      regCv := blockAt ct s.blk
      regNxt := blockAt ct s.blk
      regCol := c
      round := 0
      blk := s.blk + 1
      work := append s.work (xorBlock (decryptBlock (blockAt ct s.blk) s.rk) s.regCv) }
    refine ⟨a, b, x, col, rd, ?_⟩
    rw [h]
    simp only [cbcDecLoop, append, List.append_assoc, Nat.add_assoc, Nat.add_comm 1 n]

/-- CBCENC over the registers: the function's value is the result, and only the transients change. -/
theorem cbcEncOp_eq (iv : Block) (d : List Byte) (s : State) :
    ∃ (a b : Block) (col : Word) (rd : Round) (i n : Nat) (w : List Byte),
      cbcEncOp iv d s = { s with
        regS := a, regCv := b, regCol := col, round := rd, blk := i, nblk := n, work := w,
        result := .bytes (cbcEnc s.rk iv d) } := by
  obtain ⟨a, b, col, rd, h⟩ := runBlocks_cbcEncStep ((pad d).length / 16) (cbcEncLoad iv d s) []
  refine ⟨a, b, col, rd, (pad d).length / 16, (pad d).length / 16, pad d, ?_⟩
  simp only [cbcEncLoad, List.nil_append, Nat.zero_add] at h
  simp only [cbcEncOp, cbcEncLoad, h, cbcEnc]

/-- CBCDEC over the registers, when the size is right: the loop leaves the decrypted message in WORK. -/
theorem cbcDecOp_eq (iv : Block) (ct : List Byte) (s : State) (h0 : ct.length ≠ 0) (h16 : ct.length % 16 = 0) :
    ∃ t : State,
      (∃ (a b x : Block) (col : Word) (rd : Round) (i n : Nat),
        t = { s with
          regS := a, regCv := b, regNxt := x, regCol := col, round := rd, blk := i, nblk := n,
          work := cbcDecLoop s.rk ct (ct.length / 16) 0 iv }) ∧
      cbcDecOp iv ct s =
        match cbcDec s.rk iv ct with
        | .ok d => { t with result := .bytes d }
        | .error e => raise e t := by
  obtain ⟨a, b, x, col, rd, h⟩ := runBlocks_cbcDecStep ct (ct.length / 16) (cbcDecLoad iv ct s)
  refine ⟨_, ⟨a, b, x, col, rd, ct.length / 16, ct.length / 16, rfl⟩, ?_⟩
  simp only [cbcDecLoad, List.nil_append, Nat.zero_add] at h
  rw [cbcDecOp, if_neg h0, if_neg (by omega), cbcDec, if_neg h0, if_neg (by omega)]
  simp only [cbcDecLoad, h] <;> cases unpad (cbcDecLoop s.rk ct (ct.length / 16) 0 iv) <;> rfl

end Sys2Proof.Machine
end

