-- ==== Sys2Proof/Laws/Commands.lean ====
section
/-! SUPPORT. The shared operations of the commands: what the two ends of a command leave of what persists, when the operand
checks succeed, and what a command step can be. -/

namespace Sys2Proof.Machine

/-! ### The ends of a command -/

theorem raise_persistent (e : ErrorKind) (s : State) :
    (raise e s).persistent = { s.persistent with err := .raised e } := rfl

theorem finish_persistent (s : State) : (finish s).persistent = { s.persistent with err := .ok } := rfl

/-! ### Operands -/

/-- The operands of ENCRYPT and DECRYPT are there exactly when the context, IV and DATA_IN are (46_cbc_commands.md R173
step 3). -/
theorem cipherOperands_eq_some (s : State) (rk : Schedule) (iv : Block) (d : List Byte) :
    s.cipherOperands = some (rk, iv, d) ↔ s.ctxValid = true ∧ s.rk = rk ∧ s.iv = some iv ∧ s.dataIn = some d := by
  rw [State.cipherOperands]
  cases s.ctxValid <;> cases s.iv <;> cases s.dataIn <;> simp

theorem cipherOperands_eq_none (s : State) :
    s.cipherOperands = none ↔ s.ctxValid = false ∨ s.iv = none ∨ s.dataIn = none := by
  rw [State.cipherOperands]
  cases s.ctxValid <;> cases s.iv <;> cases s.dataIn <;> simp

theorem cbcOperands_eq_some (s : State) (iv : Block) (d : List Byte) :
    s.cbcOperands = some (iv, d) ↔ s.iv = some iv ∧ s.dataIn = some d := by
  rw [State.cbcOperands]
  cases s.iv <;> cases s.dataIn <;> simp

theorem cbcOperands_eq_none (s : State) : s.cbcOperands = none ↔ s.iv = none ∨ s.dataIn = none := by
  rw [State.cbcOperands]
  cases s.iv <;> cases s.dataIn <;> simp

theorem onKeyIn_of_key (run : Block → State → State) (s : State) (key : Block) (h : s.keyIn = some key.toList) :
    onKeyIn run s = run key s := by
  simp [onKeyIn, h, Config.keyBytes]

theorem onKeyIn_of_absent (run : Block → State → State) (s : State) (h : s.keyIn = none) :
    onKeyIn run s = raise .genericError s := by
  simp [onKeyIn, h]

theorem onKeyIn_of_length (run : Block → State → State) (s : State) (k : List Byte) (h : s.keyIn = some k)
    (hk : k.length ≠ 16) : onKeyIn run s = raise .invalidKeySize s := by
  simp [onKeyIn, h, Config.keyBytes, hk]

/-- A legal round index is the round it writes down. -/
theorem roundIndex_eq_some (least : Nat) (r : BitVec 4) (i : Round) :
    roundIndex least r = some i ↔ least ≤ r.toNat ∧ r.toNat = i.val := by
  unfold roundIndex
  split
  · rename_i h
    simp only [Option.some.injEq, Fin.ext_iff]
    exact ⟨fun e => ⟨h.1, e⟩, fun e => e.2⟩
  · rename_i h
    simp only [reduceCtorEq, false_iff]
    intro e
    exact h ⟨e.1, by omega⟩

/-- What a form with a round index can do: run on a legal index, or be refused. -/
theorem withRoundIndex_eq_next (least : Nat) (r : BitVec 4) (run : Round → State) (t : State) :
    withRoundIndex least r run = .next t ↔ ∃ i : Round, least ≤ r.toNat ∧ r.toNat = i.val ∧ run i = t := by
  rw [withRoundIndex]
  cases h : roundIndex least r with
  | none =>
    simp only [reduceCtorEq, false_iff, not_exists]
    rintro i ⟨h1, h2, -⟩
    rw [(roundIndex_eq_some least r i).2 ⟨h1, h2⟩] at h
    cases h
  | some j =>
    obtain ⟨h1, h2⟩ := (roundIndex_eq_some least r j).1 h
    simp only [Host.Outcome.next.injEq]
    constructor
    · rintro rfl
      exact ⟨j, h1, h2, rfl⟩
    · rintro ⟨i, -, hi, rfl⟩
      rw [show j = i from Fin.ext (by omega)]

/-! ### The command step -/

/-- A command code is one of the three of 30_encoding.md R72 or reserved. -/
theorem decodeCmd_cases (c : CmdCode) :
    c = 0x01 ∧ decodeCmd c = .ok .init ∨ c = 0x02 ∧ decodeCmd c = .ok .encrypt ∨ c = 0x03 ∧ decodeCmd c = .ok .decrypt ∨
      c ≠ 0x01 ∧ c ≠ 0x02 ∧ c ≠ 0x03 ∧ decodeCmd c = .error (.reservedCommand c) := by
  revert c
  decide +kernel

/-- A command step is always taken, and is one of four (46_cbc_commands.md R173). -/
theorem commandStep_cases (c : CmdCode) (s : State) :
    c = 0x01 ∧ commandStep c s = .next (initCommand s) ∨ c = 0x02 ∧ commandStep c s = .next (encryptCommand s) ∨
      c = 0x03 ∧ commandStep c s = .next (decryptCommand s) ∨
      c ≠ 0x01 ∧ c ≠ 0x02 ∧ c ≠ 0x03 ∧ commandStep c s = .next (reservedCommand s) := by
  unfold commandStep
  rcases decodeCmd_cases c with ⟨h, e⟩ | ⟨h, e⟩ | ⟨h, e⟩ | ⟨h1, h2, h3, e⟩ <;> rw [e]
  · exact .inl ⟨h, rfl⟩
  · exact .inr (.inl ⟨h, rfl⟩)
  · exact .inr (.inr (.inl ⟨h, rfl⟩))
  · exact .inr (.inr (.inr ⟨h1, h2, h3, rfl⟩))

/-- INIT is one of three (46_cbc_commands.md R174). -/
theorem initCommand_cases (s : State) :
    s.keyIn = none ∧ initCommand s = raise .genericError s ∨
      (∃ k, s.keyIn = some k ∧ k.length ≠ 16 ∧ initCommand s = raise .invalidKeySize s) ∨
      ∃ k, s.keyIn = some k ∧ k.length = 16 ∧
        initCommand s = finish { s with key := toBlock k, rk := schedule (toBlock k), ctxValid := true } := by
  unfold initCommand
  cases h : s.keyIn with
  | none => exact .inl ⟨rfl, rfl⟩
  | some k =>
    by_cases hk : k.length = 16
    · exact .inr (.inr ⟨k, rfl, hk, by simp only [expand, Config.keyBytes, if_pos hk]⟩)
    · exact .inr (.inl ⟨k, rfl, hk, by simp only [expand, Config.keyBytes, if_neg hk]⟩)

/-- ENCRYPT is one of two (46_cbc_commands.md R176). -/
theorem encryptCommand_cases (s : State) :
    (s.ctxValid = false ∨ s.iv = none ∨ s.dataIn = none) ∧
        encryptCommand s = raise .genericError { s with dataOut := none } ∨
      ∃ iv d, s.ctxValid = true ∧ s.iv = some iv ∧ s.dataIn = some d ∧
        encryptCommand s = finish { s with dataOut := some (cbcEnc s.rk iv d) } := by
  unfold encryptCommand
  cases h : State.cipherOperands { s with dataOut := none } with
  | none => exact .inl ⟨(cipherOperands_eq_none _).1 h, by simp only [h]⟩
  | some q =>
    obtain ⟨rk, iv, d⟩ := q
    obtain ⟨hc, rfl, hi, hd⟩ := (cipherOperands_eq_some _ _ _ _).1 h
    exact .inr ⟨iv, d, hc, hi, hd, by simp only [h]⟩

/-- DECRYPT is one of three (46_cbc_commands.md R177). -/
theorem decryptCommand_cases (s : State) :
    (s.ctxValid = false ∨ s.iv = none ∨ s.dataIn = none) ∧
        decryptCommand s = raise .genericError { s with dataOut := none } ∨
      (∃ iv c e, s.ctxValid = true ∧ s.iv = some iv ∧ s.dataIn = some c ∧ cbcDec s.rk iv c = .error e ∧
        decryptCommand s = raise e { s with dataOut := none }) ∨
      ∃ iv c p, s.ctxValid = true ∧ s.iv = some iv ∧ s.dataIn = some c ∧ cbcDec s.rk iv c = .ok p ∧
        decryptCommand s = finish { s with dataOut := some p } := by
  unfold decryptCommand
  cases h : State.cipherOperands { s with dataOut := none } with
  | none => exact .inl ⟨(cipherOperands_eq_none _).1 h, by simp only [h]⟩
  | some q =>
    obtain ⟨rk, iv, c⟩ := q
    obtain ⟨hc, rfl, hi, hd⟩ := (cipherOperands_eq_some _ _ _ _).1 h
    cases hr : cbcDec s.rk iv c with
    | error e => exact .inr (.inl ⟨iv, c, e, hc, hi, hd, hr, by simp only [h, hr]⟩)
    | ok p => exact .inr (.inr ⟨iv, c, p, hc, hi, hd, hr, by simp only [h, hr]⟩)

end Sys2Proof.Machine
end

