-- ==== Sys2Proof/Laws/Gf.lean ====
section
/-! SUPPORT. GFMUL is additive in both operands, and the two matrices of the column mixing are inverse on a column. -/

namespace Sys2Proof.Machine

theorem xtime_xor (a b : Byte) : xtime (a ^^^ b) = xtime a ^^^ xtime b := by
  have cancel (u v c : Byte) : (u ^^^ c) ^^^ (v ^^^ c) = u ^^^ v := by
    rw [show (u ^^^ c) ^^^ (v ^^^ c) = (u ^^^ v) ^^^ (c ^^^ c) by ac_rfl]
    simp
  unfold xtime
  rw [BitVec.getLsbD_xor, BitVec.shiftLeft_xor_distrib]
  cases a.getLsbD 7 <;> cases b.getLsbD 7
  · rfl
  · simp only [Bool.false_bne, if_true, Bool.false_eq_true, if_false]; ac_rfl
  · simp only [Bool.true_bne, Bool.not_false, if_true, Bool.false_eq_true, if_false]; ac_rfl
  · simp [cancel]

theorem gfmulLoop_xor (n : Nat) (acc acc' a a' b : Byte) :
    gfmulLoop n (acc ^^^ acc') (a ^^^ a') b = gfmulLoop n acc a b ^^^ gfmulLoop n acc' a' b := by
  induction n generalizing acc acc' a a' b with
  | zero => rfl
  | succ n ih =>
    simp only [gfmulLoop, xtime_xor]
    cases b.getLsbD 0
    · simpa using ih ..
    · rw [← ih]
      simp only [if_true]
      congr 1
      ac_rfl

theorem gfmul_xor_left (a a' b : Byte) : gfmul (a ^^^ a') b = gfmul a b ^^^ gfmul a' b := by
  simpa [gfmul] using gfmulLoop_xor 8 0 0 a a' b

theorem gfmulLoop_xor_right (n : Nat) (acc acc' a b b' : Byte) :
    gfmulLoop n (acc ^^^ acc') a (b ^^^ b') = gfmulLoop n acc a b ^^^ gfmulLoop n acc' a b' := by
  induction n generalizing acc acc' a b b' with
  | zero => rfl
  | succ n ih =>
    simp only [gfmulLoop, BitVec.ushiftRight_xor_distrib, BitVec.getLsbD_xor]
    rw [← ih]
    congr 1
    cases b.getLsbD 0 <;> cases b'.getLsbD 0
    · simp
    · simp; ac_rfl
    · simp; ac_rfl
    · simp only [bne_self_eq_false, Bool.false_eq_true, if_true, if_false]
      rw [show acc ^^^ a ^^^ (acc' ^^^ a) = acc ^^^ acc' ^^^ (a ^^^ a) by ac_rfl]
      simp

theorem gfmul_xor_right (a b b' : Byte) : gfmul a (b ^^^ b') = gfmul a b ^^^ gfmul a b' := by
  simpa [gfmul] using gfmulLoop_xor_right 8 0 0 a b b'

/-- The four entries of a row of INVMIX·MIX, acting on one byte (43_block_transform.md R132). -/
theorem invMix_mix_byte (x : Byte) :
    gfmul 14 (gfmul 2 x) ^^^ gfmul 11 (gfmul 1 x) ^^^ gfmul 13 (gfmul 1 x) ^^^ gfmul 9 (gfmul 3 x) = x ∧
    gfmul 14 (gfmul 3 x) ^^^ gfmul 11 (gfmul 2 x) ^^^ gfmul 13 (gfmul 1 x) ^^^ gfmul 9 (gfmul 1 x) = 0 ∧
    gfmul 14 (gfmul 1 x) ^^^ gfmul 11 (gfmul 3 x) ^^^ gfmul 13 (gfmul 2 x) ^^^ gfmul 9 (gfmul 1 x) = 0 ∧
    gfmul 14 (gfmul 1 x) ^^^ gfmul 11 (gfmul 1 x) ^^^ gfmul 13 (gfmul 3 x) ^^^ gfmul 9 (gfmul 2 x) = 0 := by
  revert x
  decide +kernel

/-- The four entries of a row of MIX·INVMIX, acting on one byte (43_block_transform.md R132). -/
theorem mix_invMix_byte (x : Byte) :
    gfmul 2 (gfmul 14 x) ^^^ gfmul 3 (gfmul 9 x) ^^^ gfmul 1 (gfmul 13 x) ^^^ gfmul 1 (gfmul 11 x) = x ∧
    gfmul 2 (gfmul 11 x) ^^^ gfmul 3 (gfmul 14 x) ^^^ gfmul 1 (gfmul 9 x) ^^^ gfmul 1 (gfmul 13 x) = 0 ∧
    gfmul 2 (gfmul 13 x) ^^^ gfmul 3 (gfmul 11 x) ^^^ gfmul 1 (gfmul 14 x) ^^^ gfmul 1 (gfmul 9 x) = 0 ∧
    gfmul 2 (gfmul 9 x) ^^^ gfmul 3 (gfmul 13 x) ^^^ gfmul 1 (gfmul 11 x) ^^^ gfmul 1 (gfmul 14 x) = 0 := by
  revert x
  decide +kernel

/-- Four sums of four, summed the other way round. -/
theorem xor_transpose {p q r s : Byte} {a0 a1 a2 a3 b0 b1 b2 b3 c0 c1 c2 c3 d0 d1 d2 d3 : Byte}
    (ha : a0 ^^^ b0 ^^^ c0 ^^^ d0 = p) (hb : a1 ^^^ b1 ^^^ c1 ^^^ d1 = q)
    (hc : a2 ^^^ b2 ^^^ c2 ^^^ d2 = r) (hd : a3 ^^^ b3 ^^^ c3 ^^^ d3 = s) :
    (a0 ^^^ a1 ^^^ a2 ^^^ a3) ^^^ (b0 ^^^ b1 ^^^ b2 ^^^ b3) ^^^ (c0 ^^^ c1 ^^^ c2 ^^^ c3) ^^^ (d0 ^^^ d1 ^^^ d2 ^^^ d3)
      = p ^^^ q ^^^ r ^^^ s := by
  rw [← ha, ← hb, ← hc, ← hd]
  ac_rfl

theorem xor_rotate {w x y z v : Byte} (h : w ^^^ x ^^^ y ^^^ z = v) : z ^^^ w ^^^ x ^^^ y = v := by
  rw [← h]
  ac_rfl

/-- A matrix times a column, entry by entry (43_block_transform.md R130). -/
theorem matCol_eq (m : Matrix4) (a : Word) :
    matCol m a = #v[
      gfmul m[0][0] a[0] ^^^ gfmul m[0][1] a[1] ^^^ gfmul m[0][2] a[2] ^^^ gfmul m[0][3] a[3],
      gfmul m[1][0] a[0] ^^^ gfmul m[1][1] a[1] ^^^ gfmul m[1][2] a[2] ^^^ gfmul m[1][3] a[3],
      gfmul m[2][0] a[0] ^^^ gfmul m[2][1] a[1] ^^^ gfmul m[2][2] a[2] ^^^ gfmul m[2][3] a[3],
      gfmul m[3][0] a[0] ^^^ gfmul m[3][1] a[1] ^^^ gfmul m[3][2] a[2] ^^^ gfmul m[3][3] a[3]] := rfl

/-- MIX times a column, entry by entry. -/
theorem matCol_mix (a : Word) :
    matCol mix a = #v[
      gfmul 2 a[0] ^^^ gfmul 3 a[1] ^^^ gfmul 1 a[2] ^^^ gfmul 1 a[3],
      gfmul 1 a[0] ^^^ gfmul 2 a[1] ^^^ gfmul 3 a[2] ^^^ gfmul 1 a[3],
      gfmul 1 a[0] ^^^ gfmul 1 a[1] ^^^ gfmul 2 a[2] ^^^ gfmul 3 a[3],
      gfmul 3 a[0] ^^^ gfmul 1 a[1] ^^^ gfmul 1 a[2] ^^^ gfmul 2 a[3]] := by
  simp only [matCol_eq, mix, circulant]
  rfl

/-- INVMIX times a column, entry by entry. -/
theorem matCol_invMix (a : Word) :
    matCol invMix a = #v[
      gfmul 14 a[0] ^^^ gfmul 11 a[1] ^^^ gfmul 13 a[2] ^^^ gfmul 9 a[3],
      gfmul 9 a[0] ^^^ gfmul 14 a[1] ^^^ gfmul 11 a[2] ^^^ gfmul 13 a[3],
      gfmul 13 a[0] ^^^ gfmul 9 a[1] ^^^ gfmul 14 a[2] ^^^ gfmul 11 a[3],
      gfmul 11 a[0] ^^^ gfmul 13 a[1] ^^^ gfmul 9 a[2] ^^^ gfmul 14 a[3]] := by
  simp only [matCol_eq, invMix, circulant]
  rfl

/-- INVMIX undoes MIX on a column (43_block_transform.md R132). -/
theorem matCol_invMix_mix (a : Word) : matCol invMix (matCol mix a) = a := by
  obtain ⟨p0, p1, p2, p3⟩ := invMix_mix_byte a[0]
  obtain ⟨q0, q1, q2, q3⟩ := invMix_mix_byte a[1]
  obtain ⟨r0, r1, r2, r3⟩ := invMix_mix_byte a[2]
  obtain ⟨s0, s1, s2, s3⟩ := invMix_mix_byte a[3]
  ext1 i hi
  have hc : i = 0 ∨ i = 1 ∨ i = 2 ∨ i = 3 := by omega
  rcases hc with rfl | rfl | rfl | rfl <;>
    simp only [matCol_mix, matCol_invMix, Vector.getElem_mk, List.getElem_toArray,
      List.getElem_cons_zero, List.getElem_cons_succ, gfmul_xor_right]
  · rw [xor_transpose p0 q1 r2 s3]; simp
  · rw [xor_transpose (xor_rotate p3) (xor_rotate q0) (xor_rotate r1) (xor_rotate s2)]; simp
  · rw [xor_transpose (xor_rotate (xor_rotate p2)) (xor_rotate (xor_rotate q3)) (xor_rotate (xor_rotate r0))
      (xor_rotate (xor_rotate s1))]; simp
  · rw [xor_transpose (xor_rotate (xor_rotate (xor_rotate p1))) (xor_rotate (xor_rotate (xor_rotate q2)))
      (xor_rotate (xor_rotate (xor_rotate r3))) (xor_rotate (xor_rotate (xor_rotate s0)))]; simp

/-- MIX undoes INVMIX on a column (43_block_transform.md R132). -/
theorem matCol_mix_invMix (a : Word) : matCol mix (matCol invMix a) = a := by
  obtain ⟨p0, p1, p2, p3⟩ := mix_invMix_byte a[0]
  obtain ⟨q0, q1, q2, q3⟩ := mix_invMix_byte a[1]
  obtain ⟨r0, r1, r2, r3⟩ := mix_invMix_byte a[2]
  obtain ⟨s0, s1, s2, s3⟩ := mix_invMix_byte a[3]
  ext1 i hi
  have hc : i = 0 ∨ i = 1 ∨ i = 2 ∨ i = 3 := by omega
  rcases hc with rfl | rfl | rfl | rfl <;>
    simp only [matCol_mix, matCol_invMix, Vector.getElem_mk, List.getElem_toArray,
      List.getElem_cons_zero, List.getElem_cons_succ, gfmul_xor_right]
  · rw [xor_transpose p0 q1 r2 s3]; simp
  · rw [xor_transpose (xor_rotate p3) (xor_rotate q0) (xor_rotate r1) (xor_rotate s2)]; simp
  · rw [xor_transpose (xor_rotate (xor_rotate p2)) (xor_rotate (xor_rotate q3)) (xor_rotate (xor_rotate r0))
      (xor_rotate (xor_rotate s1))]; simp
  · rw [xor_transpose (xor_rotate (xor_rotate (xor_rotate p1))) (xor_rotate (xor_rotate (xor_rotate q2)))
      (xor_rotate (xor_rotate (xor_rotate r3))) (xor_rotate (xor_rotate (xor_rotate s0)))]; simp

/-- A matrix product is additive in the column (43_block_transform.md R131: the column mixing is linear). -/
theorem matCol_xor (m : Matrix4) (a b : Word) : matCol m (xorWord a b) = xorWord (matCol m a) (matCol m b) := by
  ext1 i hi
  simp only [matCol, Vector.getElem_ofFn, xorWord_getElem, gfmul_xor_right]
  ac_rfl

end Sys2Proof.Machine
end

