-- ==== Sys2Proof/Laws/PerInstr.lean ====
section
/-! SUPPORT. Statements made per instruction. CodeSpace: a command has a code of the CMD space, a micro-operation one of the UOP
space (30_encoding.md R70). -/

namespace Sys2Proof.Laws.CodeSpace

def Statement (i : Instr) : Prop :=
  if i.isCommand then ∃ c, encode i = .cmd c else ∃ c, encode i = .uop c

theorem init : Statement .init := ⟨_, rfl⟩

theorem encrypt : Statement .encrypt := ⟨_, rfl⟩

theorem decrypt : Statement .decrypt := ⟨_, rfl⟩

theorem xtime : Statement .xtime := ⟨_, rfl⟩

theorem gfmul : Statement .gfmul := ⟨_, rfl⟩

theorem sbox : Statement .sbox := ⟨_, rfl⟩

theorem invsbox : Statement .invsbox := ⟨_, rfl⟩

theorem rotword : Statement .rotword := ⟨_, rfl⟩

theorem subword : Statement .subword := ⟨_, rfl⟩

theorem rcon (r : BitVec 4) : Statement (.rcon r) := ⟨_, rfl⟩

theorem ksround (r : BitVec 4) : Statement (.ksround r) := ⟨_, rfl⟩

theorem expand : Statement .expand := ⟨_, rfl⟩

theorem subbytes : Statement .subbytes := ⟨_, rfl⟩

theorem invsubbytes : Statement .invsubbytes := ⟨_, rfl⟩

theorem shiftrows : Statement .shiftrows := ⟨_, rfl⟩

theorem invshiftrows : Statement .invshiftrows := ⟨_, rfl⟩

theorem mixcolumns : Statement .mixcolumns := ⟨_, rfl⟩

theorem invmixcolumns : Statement .invmixcolumns := ⟨_, rfl⟩

theorem addroundkey (r : BitVec 4) : Statement (.addroundkey r) := ⟨_, rfl⟩

theorem encryptblock : Statement .encryptblock := ⟨_, rfl⟩

theorem decryptblock : Statement .decryptblock := ⟨_, rfl⟩

theorem pad : Statement .pad := ⟨_, rfl⟩

theorem unpad : Statement .unpad := ⟨_, rfl⟩

theorem cbcenc : Statement .cbcenc := ⟨_, rfl⟩

theorem cbcdec : Statement .cbcdec := ⟨_, rfl⟩

end Sys2Proof.Laws.CodeSpace
end

