-- ==== Sys2Proof/Laws/Run.lean ====
section
/-! SUPPORT. Runs of the sequencer: one step takes the next of `seq`, and how a run is cut in parts, and what one
round of each machine leaves. -/

namespace Sys2Proof.Machine

theorem run_succ (M : Host.Core) (n : Nat) (s t : M.State) (h : M.step s = .next t) : M.run (n + 1) s = M.run n t := by
  simp only [Host.Core.run, h]

theorem run_add (M : Host.Core) (m n : Nat) (s t : M.State) (h : M.run m s = .next t) :
    M.run (m + n) s = M.run n t := by
  induction m generalizing s with
  | zero =>
    simp only [Host.Core.run] at h
    cases h
    simp
  | succ m ih =>
    rw [Nat.succ_add]
    simp only [Host.Core.run] at h ⊢
    cases hs : M.step s with
    | next u =>
      simp only [hs] at h ⊢
      exact ih u h
    | fault r => simp [hs] at h
    | refused r => simp [hs] at h

/-- One step of a run, when the sequencer's next step answers a next state. -/
theorem run_sequencer (a : SeqStep) (rest : List SeqStep) (s t : State) (n : Nat) (hs : s.seq = a :: rest)
    (ht : sequencerStep a { s with seq := rest } = .next t) :
    Host.Core.run core (n + 1) s = Host.Core.run core n t := by
  have h : step s = .next t := by
    simp only [step, stepWith, hs]
    exact ht
  exact run_succ core n s t h

/-- One issued micro-operation of a run, when its code is legal and its instruction answers a next state. -/
theorem run_issued (c : UopCode) (i : Instr) (rest : List SeqStep) (s t : State) (n : Nat)
    (hs : s.seq = .issue c :: rest) (hc : decodeUop c = .ok i) (ht : exec i { s with seq := rest } = .next t) :
    Host.Core.run core (n + 1) s = Host.Core.run core n t :=
  run_sequencer (.issue c) rest s t n hs (by simpa only [sequencerStep, uopStep, hc] using ht)

/-- The round index written in a code is the round itself. -/
theorem roundField_toNat (r : Round) : (roundField r).toNat = r.val := by
  revert r
  decide

/-- A form with a legal round index runs. -/
theorem withRoundIndex_roundField (least : Nat) (r : Round) (h : least ≤ r.val) (run : Round → State) :
    withRoundIndex least (roundField r) run = .next (run r) :=
  (withRoundIndex_eq_next _ _ _ _).2 ⟨r, by rw [roundField_toNat]; exact h, roundField_toNat r, rfl⟩

/-- The codes of the micro-operations with a round index, each that of its instruction. -/
theorem decodeUop_rcon (r : Round) (h : 1 ≤ r.val) :
    decodeUop (0x320#12 ||| (roundField r).setWidth 12) = .ok (.rcon (roundField r)) := by
  revert h
  revert r
  decide

theorem decodeUop_ksround (r : Round) (h : 1 ≤ r.val) :
    decodeUop (0x330#12 ||| (roundField r).setWidth 12) = .ok (.ksround (roundField r)) := by
  revert h
  revert r
  decide

theorem decodeUop_addroundkey (r : Round) :
    decodeUop (0x460#12 ||| (roundField r).setWidth 12) = .ok (.addroundkey (roundField r)) := by
  revert r
  decide

theorem exec_addroundkey (r : Round) (s : State) :
    exec (.addroundkey (roundField r)) s = .next (addRoundKeyOp r s) :=
  withRoundIndex_roundField 0 r (Nat.zero_le _) _

/-- Step `r` of the key-schedule machine over its six steps (42_key_schedule.md R119). -/
theorem run_keyRound (r : Round) (hr : 1 ≤ r.val) (rest : List SeqStep) (s : State) (n : Nat)
    (h : s.seq = keyRoundSteps r ++ rest) :
    Host.Core.run core (n + 6) s = Host.Core.run core n { s with
      rk := (ksRoundOp r s).rk, regT := (ksRoundOp r s).regT, result := .byte (rcon r.val), round := r, seq := rest } := by
  rw [run_sequencer (.setRound r) _ s _ _ h rfl, run_sequencer (.loadT r) _ _ _ _ rfl rfl,
    run_issued _ .rotword _ _ _ _ rfl rfl rfl, run_issued _ .subword _ _ _ _ rfl rfl rfl,
    run_issued _ (.rcon (roundField r)) _ _ _ _ rfl (decodeUop_rcon r hr) (withRoundIndex_roundField 1 r hr _),
    run_issued _ (.ksround (roundField r)) _ _ _ _ rfl (decodeUop_ksround r hr) (withRoundIndex_roundField 1 r hr _)]
  rfl

/-- One of the states 1 to 9 of the encryption machine over its five steps (44_block_cipher_core.md R153). -/
theorem run_encRound (r : Round) (h0 : r.val ≠ 0) (h10 : r.val ≠ 10) (rest : List SeqStep) (s : State) (n : Nat)
    (h : s.seq = encRoundSteps r ++ rest) :
    Host.Core.run core (n + 5) s = Host.Core.run core n { s with
      regS := encRound s.rk s.regS r, regCol := column (shiftRows (subBytes s.regS)) 3, round := r, seq := rest } := by
  simp only [encRoundSteps, encStages, if_neg h0, if_neg h10] at h
  rw [run_sequencer (.setRound r) _ s _ _ h rfl, run_issued _ .subbytes _ _ _ _ rfl rfl rfl,
    run_issued _ .shiftrows _ _ _ _ rfl rfl rfl, run_issued _ .mixcolumns _ _ _ _ rfl rfl rfl,
    run_issued _ (.addroundkey (roundField r)) _ _ _ _ rfl (decodeUop_addroundkey r) (exec_addroundkey r _)]
  simp only [addRoundKeyOp, encRound, mixColumnsOp, subBytesOp, shiftRowsOp]
  rfl

/-- One of the states 9 to 1 of the decryption machine over its five steps (44_block_cipher_core.md R154). -/
theorem run_decRound (r : Round) (h0 : r.val ≠ 0) (h10 : r.val ≠ 10) (rest : List SeqStep) (s : State) (n : Nat)
    (h : s.seq = decRoundSteps r ++ rest) :
    Host.Core.run core (n + 5) s = Host.Core.run core n { s with
      regS := decRound s.rk s.regS r, regCol := column (addRoundKey (invSubBytes (invShiftRows s.regS)) s.rk[r.val]) 3,
      round := r, seq := rest } := by
  simp only [decRoundSteps, decStages, if_neg h0, if_neg h10] at h
  rw [run_sequencer (.setRound r) _ s _ _ h rfl, run_issued _ .invshiftrows _ _ _ _ rfl rfl rfl,
    run_issued _ .invsubbytes _ _ _ _ rfl rfl rfl,
    run_issued _ (.addroundkey (roundField r)) _ _ _ _ rfl (decodeUop_addroundkey r) (exec_addroundkey r _),
    run_issued _ .invmixcolumns _ _ _ _ rfl rfl rfl]
  simp only [addRoundKeyOp, invMixColumnsOp, invSubBytesOp, invShiftRowsOp, decRound]
  rfl

end Sys2Proof.Machine
end

