-- ==== Sys2Proof/Laws/Schedule.lean ====
section
/-! SUPPORT. The round keys of a schedule (42_key_schedule.md R115), and that the key-schedule machine of R119 computes
them: RK, T and ROUND change and nothing else. -/

namespace Sys2Proof.Machine

@[simp] theorem schedule_getElem (key : Block) (r : Nat) (h : r < 11) : (schedule key)[r] = roundKey key r := by
  simp [schedule]

theorem roundKey_zero (key : Block) : roundKey key 0 = key := rfl

theorem roundKey_succ (key : Block) (r : Nat) : roundKey key (r + 1) = ksRound (r + 1) (roundKey key r) := rfl

/-- The machine over the consecutive rounds `rs`, when RK holds the keys of the rounds before. -/
theorem foldl_expandStep (key : Block) (rs : List Round) :
    ∀ (s : State) (m : Nat), rs.map Fin.val = List.range' (m + 1) rs.length → m + rs.length ≤ 10 →
      (∀ (i : Nat) (h : i < 11), i ≤ m → s.rk[i] = roundKey key i) →
      ∃ (rk : Schedule) (t : Word) (rd : Round),
        rs.foldl expandStep s = { s with rk := rk, regT := t, round := rd } ∧
        ∀ (i : Nat) (h : i < 11), i ≤ m + rs.length → rk[i] = roundKey key i := by
  induction rs with
  | nil =>
    intro s m _ _ hk
    exact ⟨s.rk, s.regT, s.round, rfl, hk⟩
  | cons r rs ih =>
    intro s m hr hle hk
    simp only [List.map_cons, List.length_cons, List.range'_succ, List.cons.injEq] at hr hle
    obtain ⟨hr0, hrs⟩ := hr
    obtain ⟨rk, t, rd, h, hrk⟩ := ih (expandStep s r) (m + 1) hrs (by omega) (by
      intro i h11 hi
      have hp : s.rk[r.val - 1] = roundKey key m := by simp only [hr0, Nat.add_sub_cancel]; exact hk m (by omega) (by omega)
      simp only [expandStep, ksRoundOp, hp]
      by_cases hir : i = m + 1
      · subst hir
        simp [hr0, roundKey_succ]
      · rw [Vector.getElem_set_ne _ _ (by omega)]
        exact hk i h11 (by omega))
    refine ⟨rk, t, rd, ?_, fun i h11 hi => hrk i h11 (by simp only [List.length_cons] at hi; omega)⟩
    rw [List.foldl_cons, h]
    rfl

/-- EXPAND in the sequencer: RK is the schedule, and besides it only T, ROUND and the free-value counter change. -/
theorem expandOp_eq (key : Block) (s : State) :
    ∃ (t : Word) (rd : Round) (n : Nat),
      expandOp key s = { s with rk := schedule key, regT := t, round := rd, free := n } := by
  obtain ⟨rk, t, rd, h, hrk⟩ := foldl_expandStep key expandRounds (copyKey key { s with round := 0 }) 0
    rfl (by simp [expandRounds]) (by
      intro i h11 hi
      obtain rfl : i = 0 := by omega
      simp [copyKey, roundKey_zero])
  have e : rk = schedule key := by
    ext1 i hi
    rw [schedule_getElem]
    exact hrk i hi (by simp only [expandRounds, List.length_cons, List.length_nil]; omega)
  refine ⟨t, Config.freeRound s.free, s.free + 1, ?_⟩
  rw [expandOp, h, e]
  rfl

end Sys2Proof.Machine
end

