-- ==== Sys2Proof/Tests/Slice0.lean ====
section
/-! SUPPORT. Tests of single steps with expected values from spec/95_test_vectors.md or from the rule named, and for every
statement with hypotheses a witness that meets them. -/

open Sys2Proof Sys2Proof.Machine

namespace Sys2Proof.Tests

/-- One field of the next state. -/
def after {α : Type} (o : Host.Outcome State Fault Refusal) (f : State → α) : Option α :=
  match o with
  | .next s => some (f s)
  | _ => none

def zeroBlock : Block := Vector.replicate 16 0x00

def zeroRk : Schedule := Vector.replicate 11 zeroBlock

/-- 000102…0f, the block of section L2.4 and the key of section L1. -/
def countBlock : Block := #v[0, 1, 2, 3, 4, 5, 6, 7, 8, 9, 10, 11, 12, 13, 14, 15]

/-- ffeedd…00, the round key of section L2.4. -/
def downBlock : Block :=
  #v[0xFF, 0xEE, 0xDD, 0xCC, 0xBB, 0xAA, 0x99, 0x88, 0x77, 0x66, 0x55, 0x44, 0x33, 0x22, 0x11, 0x00]

/-- 001122…ff, the block of section L1. -/
def upBlock : Block :=
  #v[0x00, 0x11, 0x22, 0x33, 0x44, 0x55, 0x66, 0x77, 0x88, 0x99, 0xAA, 0xBB, 0xCC, 0xDD, 0xEE, 0xFF]

def withS (b : Block) : State := { State.reset with regS := b, rk := zeroRk }

def withT (w : Word) : State := { State.reset with regT := w }

def withArgs (a b : Byte) : State := bindArgs a b State.reset

def withKeyIn (k : List Byte) : State := loadKey k State.reset

/-- A state with a context, an IV and a DATA_IN. -/
def withContext (iv : Block) (d : List Byte) : State :=
  { State.reset with ctxValid := true, rk := zeroRk, iv := some iv, dataIn := some d }

/-! ### WellFormed refuses each ill-formed term (30_encoding.md R76) -/

theorem test_wellFormed_rcon_0 : (Instr.rcon 0).wellFormed = false := by decide
theorem test_wellFormed_rcon_11 : (Instr.rcon 11).wellFormed = false := by decide
theorem test_wellFormed_ksround_0 : (Instr.ksround 0).wellFormed = false := by decide
theorem test_wellFormed_ksround_15 : (Instr.ksround 15).wellFormed = false := by decide
theorem test_wellFormed_addroundkey_11 : (Instr.addroundkey 11).wellFormed = false := by decide
theorem test_wellFormed_addroundkey_0 : (Instr.addroundkey 0).wellFormed = true := by decide

/-! ### Decoding: one word of every row, written out from its fields in 30_encoding.md R72 and R75 -/

theorem test_decode_commands :
    decodeCmd 0b00000001 = .ok .init ∧ decodeCmd 0b00000010 = .ok .encrypt ∧ decodeCmd 0b00000011 = .ok .decrypt := by
  decide

theorem test_decode_gf :
    decodeUop 0b0001_0000_0000 = .ok .xtime ∧ decodeUop 0b0001_0001_0000 = .ok .gfmul := by decide

theorem test_decode_tables :
    decodeUop 0b0010_0000_0000 = .ok .sbox ∧ decodeUop 0b0010_0001_0000 = .ok .invsbox := by decide

theorem test_decode_schedule :
    decodeUop 0b0011_0000_0000 = .ok .rotword ∧ decodeUop 0b0011_0001_0000 = .ok .subword ∧
    decodeUop 0b0011_0010_0001 = .ok (.rcon 1) ∧ decodeUop 0b0011_0011_1010 = .ok (.ksround 10) ∧
    decodeUop 0b0011_0100_0000 = .ok .expand := by decide

theorem test_decode_stages :
    decodeUop 0b0100_0000_0000 = .ok .subbytes ∧ decodeUop 0b0100_0001_0000 = .ok .invsubbytes ∧
    decodeUop 0b0100_0010_0000 = .ok .shiftrows ∧ decodeUop 0b0100_0011_0000 = .ok .invshiftrows ∧
    decodeUop 0b0100_0100_0000 = .ok .mixcolumns ∧ decodeUop 0b0100_0101_0000 = .ok .invmixcolumns ∧
    decodeUop 0b0100_0110_1010 = .ok (.addroundkey 10) := by decide

theorem test_decode_block :
    decodeUop 0b0101_0000_0000 = .ok .encryptblock ∧ decodeUop 0b0101_0001_0000 = .ok .decryptblock := by decide

theorem test_decode_padding :
    decodeUop 0b0110_0000_0000 = .ok .pad ∧ decodeUop 0b0110_0001_0000 = .ok .unpad := by decide

theorem test_decode_cbc :
    decodeUop 0b0111_0000_0000 = .ok .cbcenc ∧ decodeUop 0b0111_0001_0000 = .ok .cbcdec := by decide

theorem test_decode_reserved :
    decodeCmd 0x00 = .error (.reservedCommand 0x00) ∧ decodeUop 0x101 = .error (.reservedMicroOp 0x101) ∧
    decodeUop 0x32B = .error (.reservedRoundIndex 0x32B) := by decide

/-! ### Vectors of spec/95_test_vectors.md, one step each -/

theorem test_xtime : after (exec .xtime (withArgs 0x80 0)) (·.result) = some (.byte 0x1B) := by decide

theorem test_gfmul : after (exec .gfmul (withArgs 0x57 0x13)) (·.result) = some (.byte 0xFE) := by decide

theorem test_sbox : after (exec .sbox (withArgs 0x53 0)) (·.result) = some (.byte 0xED) := by decide

theorem test_invsbox : after (exec .invsbox (withArgs 0x53 0)) (·.result) = some (.byte 0x50) := by decide

/-- The affine step and its inverse (41_substitution_tables.md R103). -/
theorem test_affine : affine 0xCA = 0xED ∧ affine 0x01 = 0x7C ∧ ∀ b : Byte, invAffine (affine b) = b := by decide +kernel

theorem test_rotword : after (exec .rotword (withT #v[1, 2, 3, 4])) (·.regT) = some #v[2, 3, 4, 1] := by decide

theorem test_subword :
    after (exec .subword (withT #v[0x0D, 0x0E, 0x0F, 0x0C])) (·.regT) = some #v[0xD7, 0xAB, 0x76, 0xFE] := by
  decide +kernel

theorem test_rcon_9 : after (exec (.rcon 9) State.reset) (·.result) = some (.byte 0x1B) := by decide

theorem test_ksround_1 :
    after (exec (.ksround 1) { State.reset with rk := Vector.replicate 11 countBlock }) (fun t => (t.rk[1], t.regT)) =
      some (#v[0xD6, 0xAA, 0x74, 0xFD, 0xD2, 0xAF, 0x72, 0xFA, 0xDA, 0xA6, 0x78, 0xF1, 0xD6, 0xAB, 0x76, 0xFE],
        #v[0xD6, 0xAB, 0x76, 0xFE]) := by decide +kernel

theorem test_expand :
    after (exec .expand { withKeyIn countBlock.toList with rk := zeroRk }) (·.rk[10]) =
      some #v[0x13, 0x11, 0x1D, 0x7F, 0xE3, 0x94, 0x4A, 0x17, 0xF3, 0x07, 0xA7, 0x8B, 0x4D, 0x2B, 0x30, 0xC5] := by
  decide +kernel

theorem test_expand_15 :
    after (exec .expand (withKeyIn [0, 1, 2, 3, 4, 5, 6, 7, 8, 9, 10, 11, 12, 13, 14])) (·.err) =
      some (.raised .invalidKeySize) := by decide

theorem test_subbytes :
    after (exec .subbytes (withS countBlock)) (·.regS) =
      some #v[0x63, 0x7C, 0x77, 0x7B, 0xF2, 0x6B, 0x6F, 0xC5, 0x30, 0x01, 0x67, 0x2B, 0xFE, 0xD7, 0xAB, 0x76] := by
  decide +kernel

theorem test_invsubbytes :
    after (exec .invsubbytes (withS countBlock)) (·.regS) =
      some #v[0x52, 0x09, 0x6A, 0xD5, 0x30, 0x36, 0xA5, 0x38, 0xBF, 0x40, 0xA3, 0x9E, 0x81, 0xF3, 0xD7, 0xFB] := by
  decide +kernel

theorem test_shiftrows :
    after (exec .shiftrows (withS countBlock)) (·.regS) =
      some #v[0x00, 0x05, 0x0A, 0x0F, 0x04, 0x09, 0x0E, 0x03, 0x08, 0x0D, 0x02, 0x07, 0x0C, 0x01, 0x06, 0x0B] := by
  decide +kernel

theorem test_invshiftrows :
    after (exec .invshiftrows (withS countBlock)) (·.regS) =
      some #v[0x00, 0x0D, 0x0A, 0x07, 0x04, 0x01, 0x0E, 0x0B, 0x08, 0x05, 0x02, 0x0F, 0x0C, 0x09, 0x06, 0x03] := by
  decide +kernel

/-- Both matrices as R131 and R132 of 43_block_transform.md print them, row by row. -/
theorem test_matrices :
    mix.toList.map (·.toList) =
      [[0x02, 0x03, 0x01, 0x01], [0x01, 0x02, 0x03, 0x01], [0x01, 0x01, 0x02, 0x03], [0x03, 0x01, 0x01, 0x02]] ∧
    invMix.toList.map (·.toList) =
      [[0x0E, 0x0B, 0x0D, 0x09], [0x09, 0x0E, 0x0B, 0x0D], [0x0D, 0x09, 0x0E, 0x0B], [0x0B, 0x0D, 0x09, 0x0E]] := by
  decide

theorem test_mixcolumns :
    after (exec .mixcolumns (withS countBlock)) (·.regS) =
      some #v[0x02, 0x07, 0x00, 0x05, 0x06, 0x03, 0x04, 0x01, 0x0A, 0x0F, 0x08, 0x0D, 0x0E, 0x0B, 0x0C, 0x09] := by
  decide +kernel

theorem test_invmixcolumns :
    after (exec .invmixcolumns (withS countBlock)) (·.regS) =
      some #v[0x0A, 0x0F, 0x08, 0x0D, 0x0E, 0x0B, 0x0C, 0x09, 0x02, 0x07, 0x00, 0x05, 0x06, 0x03, 0x04, 0x01] := by
  decide +kernel

theorem test_addroundkey :
    after (exec (.addroundkey 10) { withS countBlock with rk := zeroRk.set 10 downBlock })
      (·.regS) = some #v[0xFF, 0xEF, 0xDF, 0xCF, 0xBF, 0xAF, 0x9F, 0x8F, 0x7F, 0x6F, 0x5F, 0x4F, 0x3F, 0x2F, 0x1F, 0x0F] := by
  decide +kernel

/-- The source's known answer (section L1.1). -/
theorem test_encryptblock :
    after (exec .encryptblock { withS upBlock with rk := schedule countBlock }) (·.regS) =
      some #v[0x69, 0xC4, 0xE0, 0xD8, 0x6A, 0x7B, 0x04, 0x30, 0xD8, 0xCD, 0xB7, 0x80, 0x70, 0xB4, 0xC5, 0x5A] := by
  decide +kernel

/-- Section L2.5, first row. -/
theorem test_decryptblock :
    after (exec .decryptblock { withS upBlock with rk := schedule countBlock }) (·.regS) =
      some #v[0x76, 0x2A, 0x5A, 0xB5, 0x09, 0x29, 0x18, 0x9C, 0xEF, 0xDB, 0x99, 0x43, 0x47, 0x90, 0xAA, 0xD8] := by
  decide +kernel

theorem test_pad :
    after (exec .pad (loadData [1, 2, 3, 4, 5] State.reset)) (·.work) =
      some [1, 2, 3, 4, 5, 11, 11, 11, 11, 11, 11, 11, 11, 11, 11, 11] := by decide

theorem test_unpad :
    after (exec .unpad { State.reset with work := List.replicate 14 0 ++ [2, 2] }) (·.result) =
      some (.bytes (List.replicate 14 0)) := by decide

theorem test_unpad_bad :
    after (exec .unpad { State.reset with work := [0, 1, 2, 3, 4, 5, 6, 7, 8, 9, 3, 3, 2, 3, 2, 3] }) (·.err) =
      some (.raised .invalidPadding) := by decide

theorem test_cbcdec_17 :
    after (exec .cbcdec (withContext zeroBlock (List.replicate 17 0))) (·.err) = some (.raised .invalidInputSize) := by decide

/-- INIT with a 16-byte key: STATUS 0x08 (46_cbc_commands.md R174). -/
theorem test_init : after (exec .init (withKeyIn countBlock.toList)) (·.status) = some 0x08 := by decide

/-- INIT with no key: STATUS 0x04 (60_exceptions.md R190). -/
theorem test_init_no_key : after (exec .init State.reset) (·.status) = some 0x04 := by decide

/-- ENCRYPT before INIT raises GenericError (46_cbc_commands.md R176). -/
theorem test_encrypt_no_context :
    after (exec .encrypt { State.reset with iv := some zeroBlock, dataIn := some [] }) (·.status) = some 0x04 := by decide

/-- ENCRYPT ends with OUT_PRESENT (46_cbc_commands.md R176). -/
theorem test_encrypt_status : after (exec .encrypt (withContext zeroBlock [])) (·.status) = some 0x18 := by decide

/-- DECRYPT of a misaligned message: ERR 2, CTX_VALID, no output (46_cbc_commands.md R177). -/
theorem test_decrypt_17 :
    after (exec .decrypt (withContext zeroBlock (List.replicate 17 0))) (·.status) = some 0x0A := by decide

/-- A reserved code: ERR 4, DATA_OUT kept (46_cbc_commands.md R178). -/
theorem test_reserved_command :
    after (commandStep 0xFF { State.reset with dataOut := some [1] }) (fun t => (t.status, t.dataOut)) =
      some (0x14, some [1]) := by decide

theorem test_reset : State.reset.status = 0x00 := by decide

/-- READSTATUS yields the byte and READOUT of an absent DATA_OUT yields nothing (30_encoding.md R80). -/
theorem test_reads :
    after (step { State.reset with script := [.readStatus] }) (·.yielded) = some [.status 0x00] ∧
    after (step { State.reset with script := [.readOut] }) (·.yielded) = some [.out none] := by decide

/-! ### Witnesses: for each statement with hypotheses, a concrete state and operands that meet them -/

theorem witness_DecodeOfEncodeIsIdentity :
    (Instr.rcon 1).wellFormed = true ∧ (Instr.ksround 10).wellFormed = true ∧ (Instr.addroundkey 0).wellFormed = true ∧
    Instr.cbcdec.wellFormed = true := by decide

theorem witness_EncodeOfDecodeIsIdentity : decode (.uop 0x33A) = .ok (.ksround 10) ∧ decode (.cmd 0x03) = .ok .decrypt := by
  decide

/-- A code with a nonzero round field in a row that has none. -/
theorem witness_ReservedMicroOperationsAreRefused_code (i : Instr) (_ : i.wellFormed = true) : encode i ≠ .uop 0x101 := by
  clear * -
  cases i <;> first | decide | (rename_i r; revert r; decide)

theorem witness_ReservedMicroOperationsAreRefused_round :
    ((0 : BitVec 4) = 0 ∨ 10 < (0 : BitVec 4).toNat) ∧ 10 < (11 : BitVec 4).toNat ∧ 10 < (15 : BitVec 4).toNat := by decide

theorem witness_GfmulFieldLaws : gfmul 0x00 0x53 = 0x00 ∧ (0xFF : Byte) ≠ 0x00 := by decide

theorem witness_SubstitutionTableLaws :
    (((0x53 : Byte) ≠ 0x00 → gfmul 0x53 0xCA = 0x01) ∧ ((0x53 : Byte) = 0x00 → (0xCA : Byte) = 0x00)) ∧
    (((0x00 : Byte) ≠ 0x00 → gfmul 0x00 0x00 = 0x01) ∧ ((0x00 : Byte) = 0x00 → (0x00 : Byte) = 0x00)) := by decide

theorem witness_ByteFunctionsReturnTheirValue :
    (1 ≤ (1 : BitVec 4).toNat ∧ (1 : BitVec 4).toNat ≤ 10) ∧ 1 ≤ (10 : BitVec 4).toNat ∧ (10 : BitVec 4).toNat ≤ 10 := by
  decide

theorem witness_KeyRoundWritesRoundKey : 1 ≤ (1 : Round).val ∧ 1 ≤ (10 : Round).val := by decide

theorem witness_ExpandWritesTheSchedule :
    (withKeyIn countBlock.toList).keyIn = some countBlock.toList ∧
    ((withKeyIn []).keyIn = some [] ∧ ([] : List Byte).length ≠ 16) ∧
    (withKeyIn (List.replicate 17 0)).keyIn = some (List.replicate 17 0) ∧ (List.replicate 17 (0 : Byte)).length ≠ 16 := by
  decide

theorem witness_FlatWordRecurrence : (3 < 4) ∧ (4 ≤ 4 ∧ 4 ≤ 43) ∧ 4 ≤ 43 ∧ 43 ≤ 43 := by decide

theorem witness_ScheduleStepsCanBeUndone :
    (schedule countBlock)[(10 : Round).val] = (schedule countBlock)[(10 : Round).val] ∧
    schedule countBlock = schedule countBlock := ⟨rfl, rfl⟩

theorem witness_ExpandIsDeterministic :
    ∃ t t', (withKeyIn countBlock.toList).keyIn = some countBlock.toList ∧
      { withKeyIn countBlock.toList with rk := zeroRk }.keyIn = some countBlock.toList ∧ countBlock.toList.length = 16 ∧
      exec .expand (withKeyIn countBlock.toList) = .next t ∧
      exec .expand { withKeyIn countBlock.toList with rk := zeroRk } = .next t' :=
  ⟨_, _, rfl, rfl, rfl, rfl, rfl⟩

theorem witness_AddRoundKeyStage : 10 < (11 : BitVec 4).toNat ∧ 10 < (15 : BitVec 4).toNat := by decide

theorem witness_BlockRoundTrip :
    (∃ t u, exec .encryptblock (withS zeroBlock) = .next t ∧ exec .decryptblock t = .next u) ∧
    ∃ t u, exec .decryptblock (withS zeroBlock) = .next t ∧ exec .encryptblock t = .next u :=
  ⟨⟨_, _, rfl, rfl⟩, _, _, rfl, rfl⟩

theorem witness_EncryptBlockIsBijective : zeroBlock ≠ countBlock := by decide

theorem witness_PadAppendsItsLength : (loadData [] State.reset).dataIn = some [] := rfl

theorem witness_UnpadAcceptsExactlyPadding :
    (∃ t, exec .unpad { State.reset with work := [] } = .next t) ∧
    unpad [] = .error .invalidPadding ∧ unpad (List.replicate 16 16) = .ok [] ∧ unpad (List.replicate 15 0 ++ [1]) = .ok
      (List.replicate 15 0) := ⟨⟨_, rfl⟩, by decide⟩

theorem witness_PaddingLaws : unpad (List.replicate 16 16) = .ok [] ∧ pad [] = pad [] := by decide

theorem witness_UnpadReturnsOrRaises_valid :
    (1 ≤ 1 ∧ ((List.replicate 15 (0 : Byte)).length + 1) % 16 = 0 ∧
      { State.reset with work := List.replicate 15 0 ++ [1] }.work =
        List.replicate 15 0 ++ List.replicate 1 (BitVec.ofNat 8 1)) ∧
    16 ≤ 16 ∧ (([] : List Byte).length + 16) % 16 = 0 ∧
      { State.reset with work := List.replicate 16 16 }.work = [] ++ List.replicate 16 (BitVec.ofNat 8 16) := by decide

theorem witness_UnpadReturnsOrRaises_invalid (d : List Byte) (l : Nat) (h : 1 ≤ l) (_ : l ≤ 16)
    (_ : (d.length + l) % 16 = 0) : { State.reset with work := [] }.work ≠ d ++ List.replicate l (BitVec.ofNat 8 l) := by
  intro e
  have := congrArg List.length e
  simp at this
  omega

/-- The empty message has one block. -/
theorem witness_CbcEncryptClosedForm : 0 < (cbcEnc zeroRk zeroBlock []).length / 16 := by
  rw [cbcEnc, cbcEncLoop_length]
  decide

theorem witness_CbcDecryptClosedForm :
    (([] : List Byte).length = 0 ∨ ([] : List Byte).length % 16 ≠ 0) ∧ (List.replicate 17 (0 : Byte)).length % 16 ≠ 0 ∧
    zeroBlock.toList.length ≠ 0 ∧ zeroBlock.toList.length % 16 = 0 ∧ 0 < zeroBlock.toList.length / 16 := by decide

/-- The IV under which the zero block decrypts to `p`. -/
def ivFor (p : Block) : Block := xorBlock (decryptBlock zeroBlock zeroRk) p

theorem decrypts_to (p : Block) : cbcDec zeroRk (ivFor p) zeroBlock.toList = unpad p.toList := by
  have h0 : zeroBlock.toList.length = 16 := rfl
  have hb : blockAt zeroBlock.toList 0 = zeroBlock := by simpa using blockAt_zero_append zeroBlock []
  have hx : xorBlock (decryptBlock zeroBlock zeroRk) (ivFor p) = p := by
    rw [ivFor, xorBlock_comm, xorBlock_comm _ p, xorBlock_cancel_right]
  rw [cbcDec, if_neg (by omega), if_neg (by omega), h0]
  simp only [cbcDecLoop, hb, hx, List.append_nil]

/-- A whole padding block: the empty plaintext. -/
def padBlock : Block := Vector.replicate 16 0x10

theorem decrypt_succeeds : cbcDec zeroRk (ivFor padBlock) zeroBlock.toList = .ok [] := by
  rw [decrypts_to]
  decide

theorem decrypt_fails (b : Byte) (h : b = 0x00 ∨ b = 0xFF) :
    cbcDec zeroRk (ivFor (Vector.replicate 16 b)) zeroBlock.toList = .error .invalidPadding := by
  rw [decrypts_to]
  rcases h with rfl | rfl <;> decide

theorem witness_CbcMicroOperationsComputeTheFunctions :
    (∃ iv d, (withContext iv d).iv = some iv ∧ (withContext iv d).dataIn = some d) ∧
    (∃ iv c p, (withContext iv c).iv = some iv ∧ (withContext iv c).dataIn = some c ∧
      cbcDec (withContext iv c).rk iv c = .ok p) ∧
    ∃ iv c e, (withContext iv c).iv = some iv ∧ (withContext iv c).dataIn = some c ∧
      cbcDec (withContext iv c).rk iv c = .error e :=
  ⟨⟨zeroBlock, [], rfl, rfl⟩, ⟨_, _, _, rfl, rfl, decrypt_succeeds⟩, ⟨_, _, _, rfl, rfl, decrypt_fails 0 (.inl rfl)⟩⟩

theorem witness_MissingOperandRaisesGenericError :
    State.reset.keyIn = none ∧ State.reset.dataIn = none ∧ (State.reset.iv = none ∨ State.reset.dataIn = none) :=
  ⟨rfl, rfl, .inl rfl⟩

theorem witness_MessageRoundTrip :
    ∃ t c u, (withContext zeroBlock [1]).ctxValid = true ∧ (withContext zeroBlock [1]).iv.isSome = true ∧
      (withContext zeroBlock [1]).dataIn = some [1] ∧ exec .encrypt (withContext zeroBlock [1]) = .next t ∧
      t.dataOut = some c ∧ exec .decrypt (loadData c t) = .next u :=
  ⟨_, _, _, rfl, rfl, rfl, rfl, rfl, rfl⟩

theorem witness_MessageLengths : cbcDec zeroRk (ivFor padBlock) zeroBlock.toList = .ok [] := decrypt_succeeds

/-- The single block of an encrypted empty message, and the same block with bit 0 of every byte flipped. -/
theorem witness_TamperSensitivity_last :
    ∃ c c' : List Byte, c = cbcEnc zeroRk zeroBlock [] ∧ c'.length = c.length ∧
      c'.take (c.length - 16) = c.take (c.length - 16) ∧ c' ≠ c := by
  let b : Block := encryptBlock (xorBlock (blockAt (pad []) 0) zeroBlock) zeroRk
  have hc : cbcEnc zeroRk zeroBlock [] = b.toList := by
    rw [cbcEnc, show (pad []).length / 16 = 1 from rfl]
    simp only [cbcEncLoop, List.append_nil]
    rfl
  refine ⟨_, (xorBlock b (Vector.replicate 16 1)).toList, rfl, by rw [hc]; simp, by rw [hc]; simp, ?_⟩
  rw [hc]
  intro e
  have h : (xorBlock b (Vector.replicate 16 1))[0] = b[0] := by rw [Vector.toList_inj.1 e]
  simp only [xorBlock_getElem, Vector.getElem_replicate] at h
  have : ∀ x : Byte, x ^^^ 1 ≠ x := by decide +kernel
  exact this _ h

theorem witness_TamperSensitivity_first :
    0 < zeroBlock.toList.length ∧ zeroBlock.toList.length % 16 = 0 := by decide

theorem witness_TamperSensitivity_earlier :
    (List.replicate 32 (0 : Byte)).length % 16 = 0 ∧ (List.replicate 16 (1 : Byte) ++ List.replicate 16 0).length = 32 ∧
    0 + 1 < (List.replicate 32 (0 : Byte)).length / 16 ∧
    blockAt (List.replicate 16 1 ++ List.replicate 16 0) 0 =
      xorBlock (blockAt (List.replicate 32 0) 0) (Vector.replicate 16 1) ∧
    blockAt (List.replicate 16 1 ++ List.replicate 16 0) 1 = blockAt (List.replicate 32 0) 1 ∧
    blockAt (List.replicate 16 1 ++ List.replicate 16 0) 0 ≠ blockAt (List.replicate 32 0) 0 := by decide +kernel

theorem witness_RowRotationStages : ∀ c : Fin 4, column zeroBlock c = column zeroBlock 0 := by decide

/-- The key of the source in KEY_IN; a load of T and ROTWORD waiting; the boundary rounds. -/
theorem witness_IssuedKeyStagesExpand :
    (withKeyIn countBlock.toList).keyIn = some countBlock.toList ∧ (1 ≤ (1 : Round).val ∧ 1 ≤ (10 : Round).val) ∧
    { State.reset with seq := [.loadT 10, .issue 0x300] }.seq = [.loadT 10, .issue 0x300] := ⟨rfl, by decide, rfl⟩

/-- 42_key_schedule.md R114's example, r = 1: T = 0c0d0e0f, whatever it held before. -/
theorem test_loadT :
    (loadT 1 { State.reset with rk := Vector.replicate 11 countBlock }).regT = #v[0x0c, 0x0d, 0x0e, 0x0f] := by decide

theorem witness_InitCreatesTheContext :
    (withKeyIn countBlock.toList).keyIn = some countBlock.toList ∧ State.reset.keyIn = none ∧
    (withKeyIn (List.replicate 15 0)).keyIn = some (List.replicate 15 0) ∧ (List.replicate 15 (0 : Byte)).length ≠ 16 := by
  decide

theorem witness_FailedInitChangesOnlyErr : ∃ t, exec .init State.reset = .next t ∧ t.err ≠ .ok :=
  ⟨_, rfl, by decide⟩

theorem witness_EncryptPublishesCbcenc :
    ((withContext zeroBlock []).ctxValid = true ∧ (withContext zeroBlock []).iv = some zeroBlock ∧
      (withContext zeroBlock []).dataIn = some []) ∧
    (State.reset.ctxValid = false ∨ State.reset.iv = none ∨ State.reset.dataIn = none) :=
  ⟨⟨rfl, rfl, rfl⟩, .inl rfl⟩

theorem witness_DecryptPublishesOrFailsClosed :
    (∃ iv c p, (withContext iv c).ctxValid = true ∧ (withContext iv c).iv = some iv ∧ (withContext iv c).dataIn = some c ∧
      cbcDec (withContext iv c).rk iv c = .ok p) ∧
    (∃ iv c e, (withContext iv c).ctxValid = true ∧ (withContext iv c).iv = some iv ∧ (withContext iv c).dataIn = some c ∧
      cbcDec (withContext iv c).rk iv c = .error e) ∧
    (State.reset.ctxValid = false ∨ State.reset.iv = none ∨ State.reset.dataIn = none) :=
  ⟨⟨_, _, _, rfl, rfl, rfl, decrypt_succeeds⟩, ⟨_, _, _, rfl, rfl, rfl, decrypt_fails 0 (.inl rfl)⟩, .inl rfl⟩

theorem witness_ReservedCommandChangesOnlyErr :
    ((0x00 : CmdCode) ≠ 0x01 ∧ (0x00 : CmdCode) ≠ 0x02 ∧ (0x00 : CmdCode) ≠ 0x03) ∧
    (0x04 : CmdCode) ≠ 0x01 ∧ (0x04 : CmdCode) ≠ 0x02 ∧ (0x04 : CmdCode) ≠ 0x03 := by decide

/-- INIT sets CTX_VALID and ENCRYPT sets OUT_PRESENT. -/
theorem witness_StatusRegisterFields :
    (∃ t, commandStep 0x01 (withKeyIn countBlock.toList) = .next t ∧ t.err = .ok ∧
      t.status.getLsbD 3 ≠ (withKeyIn countBlock.toList).status.getLsbD 3) ∧
    ∃ t, commandStep 0x02 (withContext zeroBlock []) = .next t ∧ t.err = .ok ∧
      t.status.getLsbD 4 ≠ (withContext zeroBlock []).status.getLsbD 4 :=
  ⟨⟨_, rfl, rfl, by decide⟩, _, rfl, rfl, by decide⟩

theorem witness_ErrorEntryKeepsContextAndOperands :
    (∃ t, commandStep 0x02 State.reset = .next t ∧ t.err = .raised .genericError ∧ ownsDataOut 0x02 = true) ∧
    ∃ t, commandStep 0xFF State.reset = .next t ∧ t.err = .raised .genericError ∧ ownsDataOut 0xFF = false :=
  ⟨⟨_, rfl, rfl, by decide⟩, _, rfl, rfl, by decide⟩

/-- A DECRYPT step from a state with a context. -/
theorem witness_ContextIsOnlyReplacedWhole_kept :
    ∃ t, (withContext zeroBlock []).seq = [] ∧
      step { withContext zeroBlock [] with script := [.cmd 0x03] } = .next t ∧
      (∀ rest, { withContext zeroBlock [] with script := [.cmd 0x03] }.script ≠ .reset :: rest) ∧
      ∀ rest, { withContext zeroBlock [] with script := [.cmd 0x03] }.script = .cmd 0x01 :: rest → t.err ≠ .ok :=
  ⟨_, rfl, rfl, by simp, by simp⟩

theorem witness_ContextIsOnlyReplacedWhole_replaced :
    ∃ t, exec .init (withKeyIn countBlock.toList) = .next t ∧ t.err = .ok := ⟨_, rfl, by decide⟩

theorem witness_OperandBuffersArePreserved :
    ∃ t, exec .init (withKeyIn countBlock.toList) = .next t ∧ Instr.init ≠ .encrypt ∧ Instr.init ≠ .decrypt :=
  ⟨_, rfl, by decide, by decide⟩

theorem witness_MicroOperationsStayInside :
    ∃ t, Instr.subbytes.isCommand = false ∧ exec .subbytes State.reset = .next t ∧ (∀ r, Instr.subbytes ≠ .ksround r) ∧
      Instr.subbytes ≠ .expand ∧ Instr.subbytes ≠ .pad ∧ Instr.subbytes ≠ .unpad ∧ Instr.subbytes ≠ .cbcenc ∧
      Instr.subbytes ≠ .cbcdec :=
  ⟨_, rfl, rfl, by simp, by decide, by decide, by decide, by decide, by decide⟩

/-- Two states that differ in STATUS.ERR and WORK only. -/
theorem witness_CommandIsFunctionOfItsInputs :
    (withContext zeroBlock []).commandInputs =
      { withContext zeroBlock [] with err := .raised .genericError, work := [1] }.commandInputs ∧
    (withContext zeroBlock []).dataOut =
      { withContext zeroBlock [] with err := .raised .genericError, work := [1] }.dataOut := ⟨rfl, rfl⟩

theorem witness_CommandsAreIdempotent :
    (∃ t u, commandStep 0x02 (withContext zeroBlock []) = .next t ∧ commandStep 0x02 t = .next u) ∧
    (HostStep.readStatus = .readStatus ∨ HostStep.readStatus = .readOut) ∧
    (HostStep.readOut = .readStatus ∨ HostStep.readOut = .readOut) :=
  ⟨⟨_, _, rfl, rfl⟩, .inl rfl, .inr rfl⟩

theorem decrypt_raises (b : Byte) (h : b = 0x00 ∨ b = 0xFF) :
    (decryptCommand (withContext (ivFor (Vector.replicate 16 b)) zeroBlock.toList)).err = .raised .invalidPadding := by
  have hr := decrypt_fails b h
  rcases decryptCommand_cases (withContext (ivFor (Vector.replicate 16 b)) zeroBlock.toList) with
    ⟨h, -⟩ | ⟨iv, c, e, -, hi, hd, he, hc⟩ | ⟨iv, c, p, -, hi, hd, hp, -⟩
  · rcases h with h | h | h <;> cases h
  · cases hi
    cases hd
    cases hr.symm.trans he
    rw [hc]
    rfl
  · cases hi
    cases hd
    cases hr.symm.trans hp

/-- A DECRYPT that publishes the empty plaintext. -/
theorem witness_DecryptionFailsClosed_published :
    ∃ t, commandStep 0x03 (withContext (ivFor padBlock) zeroBlock.toList) = .next t ∧ t.dataOut = some [] := by
  refine ⟨_, rfl, ?_⟩
  have hr := decrypt_succeeds
  rcases decryptCommand_cases (withContext (ivFor padBlock) zeroBlock.toList) with
    ⟨h, -⟩ | ⟨iv, c, e, -, hi, hd, he, -⟩ | ⟨iv, c, p, -, hi, hd, hp, hc⟩
  · rcases h with h | h | h <;> cases h
  · cases hi
    cases hd
    cases hr.symm.trans he
  · cases hi
    cases hd
    cases hr.symm.trans hp
    rw [hc]
    rfl

/-- Two DECRYPTs with different decrypted bytes, both without valid padding. -/
theorem witness_DecryptionFailsClosed :
    (ownsDataOut 0x03 = true ∧ ∃ t, commandStep 0x03 State.reset = .next t) ∧
    ∃ s s' t t', exec .decrypt s = .next t ∧ exec .decrypt s' = .next t' ∧
      t.err = .raised .invalidPadding ∧ t'.err = .raised .invalidPadding :=
  ⟨⟨by decide, _, rfl⟩, withContext (ivFor (Vector.replicate 16 0x00)) zeroBlock.toList,
    withContext (ivFor (Vector.replicate 16 0xFF)) zeroBlock.toList, _, _, rfl, rfl, decrypt_raises _ (.inl rfl),
    decrypt_raises _ (.inr rfl)⟩

theorem witness_StepKeepsTheInvariant : ∃ t, State.reset.Inv ∧ step State.reset = .next t :=
  ⟨_, ⟨rfl, by simp [State.reset, State.powerUp], by simp [State.reset, State.powerUp]⟩, rfl⟩

theorem witness_MachineNeverStopsBetweenCommands : State.reset.seq = [] ∧ State.reset.script = [] := ⟨rfl, rfl⟩

theorem witness_StepRunsTheDecodedInstruction :
    (State.reset.seq = [] ∧ { State.reset with script := [.cmd 0x01] }.script = [.cmd 0x01] ∧ decodeCmd 0x01 = .ok .init) ∧
    ({ State.reset with seq := [.issue 0x46A] }.seq = [.issue 0x46A] ∧ decodeUop 0x46A = .ok (.addroundkey 10)) ∧
    decodeTableWord 8 0x03 = some .decrypt ∧ decodeTableWord 16 0x710 = some .cbcdec ∧ 8 < 16 :=
  ⟨⟨rfl, rfl, rfl⟩, ⟨rfl, rfl⟩, rfl, rfl, by decide⟩

theorem witness_LoadsRespectCapacity :
    ([1] : List Byte).length ≤ 1 ∧ 1 < ([1, 2] : List Byte).length ∧
    ({ dataCap := some 16, keyCap := some 17 : Config.Capacity }.legal = true ∧ (List.replicate 17 (0 : Byte)).length ≤ 17) ∧
    Config.fits (some 16) (List.replicate 16 (0 : Byte)).length = true := by decide

end Sys2Proof.Tests
end

section
/-! PROOFS of the family 10_state.md: what a step between commands can be, the invariant of the states between commands
(R38), who replaces the context (R42), the frame of the micro-operations (R40), and the fields of STATUS (R36). -/

namespace Sys2Proof.Machine

/-! ### What a step between commands can be -/

/-- With the sequencer idle a step is the HOST's next step, or nothing when none is waiting. -/
theorem step_cases_of_idle {s t : State} (hs : s.seq = []) (h : step s = .next t) :
    (s.script = [] ∧ t = s) ∨
      ∃ a rest, s.script = a :: rest ∧ hostStep Config.capacity a { s with script := rest } = .next t := by
  simp only [step, stepWith, hs] at h
  cases hscript : s.script with
  | nil =>
    simp only [hscript, Host.Outcome.next.injEq] at h
    exact .inl ⟨rfl, h.symm⟩
  | cons a rest =>
    simp only [hscript] at h
    exact .inr ⟨a, rest, rfl, by simpa only [hs] using h⟩

/-- With the default capacities a HOST step is one of six (30_encoding.md R80); a load always fits. -/
theorem hostStep_cases {a : HostStep} {s t : State} (h : hostStep Config.capacity a s = .next t) :
    (a = .reset ∧ t = resetCore s) ∨
      (∃ x, a = .loadKey x ∧ t = loadKey x s) ∨
      (∃ x, a = .loadIv x ∧ t = loadIv x s) ∨
      (∃ x, a = .loadData x ∧ t = loadData x s) ∨
      (∃ c, a = .cmd c ∧ commandStep c s = .next t) ∨
      ∃ y, (a = .readStatus ∨ a = .readOut) ∧ t = yieldToHost y s := by
  cases a with
  | reset => cases h; exact .inl ⟨rfl, rfl⟩
  | loadKey x => cases h; exact .inr (.inl ⟨x, rfl, rfl⟩)
  | loadIv x => cases h; exact .inr (.inr (.inl ⟨x, rfl, rfl⟩))
  | loadData x => cases h; exact .inr (.inr (.inr (.inl ⟨x, rfl, rfl⟩)))
  | cmd c => exact .inr (.inr (.inr (.inr (.inl ⟨c, rfl, h⟩))))
  | readStatus => cases h; exact .inr (.inr (.inr (.inr (.inr ⟨_, .inl rfl, rfl⟩))))
  | readOut => cases h; exact .inr (.inr (.inr (.inr (.inr ⟨_, .inr rfl, rfl⟩))))

/-- A command ends in one of four ways (46_cbc_commands.md R173): an error that leaves DATA_OUT alone, an error of ENCRYPT or
DECRYPT with DATA_OUT absent, a context replaced whole, or an output published. -/
theorem commandStep_ends {c : CmdCode} {s t : State} (h : commandStep c s = .next t) :
    (c ≠ 0x02 ∧ c ≠ 0x03 ∧ ∃ e, t = raise e s) ∨
      ((c = 0x02 ∨ c = 0x03) ∧ ∃ e, t = raise e { s with dataOut := none }) ∨
      (c = 0x01 ∧ ∃ k, s.keyIn = some k ∧ k.length = 16 ∧
        t = finish { s with key := toBlock k, rk := schedule (toBlock k), ctxValid := true }) ∨
      ((c = 0x02 ∨ c = 0x03) ∧ s.ctxValid = true ∧ s.iv.isSome = true ∧ s.dataIn.isSome = true ∧
        ∃ x, t = finish { s with dataOut := some x }) := by
  rcases commandStep_cases c s with ⟨hc, e⟩ | ⟨hc, e⟩ | ⟨hc, e⟩ | ⟨-, h2, h3, e⟩ <;>
    rw [e, Host.Outcome.next.injEq] at h <;> subst h
  · have h2 : c ≠ 0x02 := by rw [hc]; decide
    have h3 : c ≠ 0x03 := by rw [hc]; decide
    rcases initCommand_cases s with ⟨-, e⟩ | ⟨k, -, -, e⟩ | ⟨k, hk, hl, e⟩
    · exact .inl ⟨h2, h3, _, e⟩
    · exact .inl ⟨h2, h3, _, e⟩
    · exact .inr (.inr (.inl ⟨hc, k, hk, hl, e⟩))
  · rcases encryptCommand_cases s with ⟨-, e⟩ | ⟨iv, d, hv, hi, hd, e⟩
    · exact .inr (.inl ⟨.inl hc, _, e⟩)
    · exact .inr (.inr (.inr ⟨.inl hc, hv, by simp [hi], by simp [hd], _, e⟩))
  · rcases decryptCommand_cases s with ⟨-, e⟩ | ⟨_, _, _, -, -, -, -, e⟩ | ⟨iv, d, p, hv, hi, hd, -, e⟩
    · exact .inr (.inl ⟨.inr hc, _, e⟩)
    · exact .inr (.inl ⟨.inr hc, _, e⟩)
    · exact .inr (.inr (.inr ⟨.inr hc, hv, by simp [hi], by simp [hd], _, e⟩))
  · exact .inl ⟨h2, h3, _, rfl⟩

/-! ### The invariant (10_state.md R38) -/

/-- After a reset there is no context and no DATA_OUT, so nothing is asked of RK and the slots. -/
theorem powerUp_inv (n : Nat) : (State.powerUp n).Inv :=
  ⟨rfl, by simp [State.powerUp], by simp [State.powerUp]⟩

theorem resetCore_inv (s : State) : (resetCore s).Inv := powerUp_inv s.free

theorem raise_inv {s : State} (h : s.Inv) (e : ErrorKind) : (raise e s).Inv :=
  ⟨rfl, h.2⟩

/-- An error after DATA_OUT was made absent: the claim about a present DATA_OUT is empty. -/
theorem raise_withoutDataOut_inv {s : State} (h : s.Inv) (e : ErrorKind) : (raise e { s with dataOut := none }).Inv := by
  obtain ⟨-, hrk, -⟩ := h
  exact ⟨rfl, hrk, fun h => nomatch h⟩

/-- A successful INIT makes RK the expansion of the new KEY. -/
theorem finish_newContext_inv {s : State} (h : s.Inv) (key : Block) :
    (finish { s with key := key, rk := schedule key, ctxValid := true }).Inv := by
  obtain ⟨-, -, hout⟩ := h
  exact ⟨rfl, fun _ => rfl, fun hd => ⟨rfl, (hout hd).2⟩⟩

/-- An output is published only from a context, an IV and a DATA_IN. -/
theorem finish_output_inv {s : State} (h : s.Inv) (x : List Byte) (hv : s.ctxValid = true) (hi : s.iv.isSome = true)
    (hd : s.dataIn.isSome = true) : (finish { s with dataOut := some x }).Inv := by
  obtain ⟨-, hrk, -⟩ := h
  exact ⟨rfl, hrk, fun _ => ⟨hv, hi, hd⟩⟩

theorem commandStep_inv {c : CmdCode} {s t : State} (hs : s.Inv) (h : commandStep c s = .next t) : t.Inv := by
  rcases commandStep_ends h with ⟨-, -, e, rfl⟩ | ⟨-, e, rfl⟩ | ⟨-, k, -, -, rfl⟩ | ⟨-, hv, hi, hd, x, rfl⟩
  · exact raise_inv hs e
  · exact raise_withoutDataOut_inv hs e
  · exact finish_newContext_inv hs (toBlock k)
  · exact finish_output_inv hs x hv hi hd

theorem hostStep_inv {a : HostStep} {s t : State} (hs : s.Inv) (h : hostStep Config.capacity a s = .next t) : t.Inv := by
  have ⟨hseq, hrk, hout⟩ := hs
  rcases hostStep_cases h with ⟨-, rfl⟩ | ⟨x, -, rfl⟩ | ⟨x, -, rfl⟩ | ⟨x, -, rfl⟩ | ⟨c, -, h⟩ | ⟨y, -, rfl⟩
  · exact resetCore_inv s
  · exact hs
  · exact ⟨hseq, hrk, fun h => ⟨(hout h).1, rfl, (hout h).2.2⟩⟩
  · exact ⟨hseq, hrk, fun h => ⟨(hout h).1, (hout h).2.1, rfl⟩⟩
  · exact commandStep_inv hs h
  · exact hs

/-- Settles O56: a step between commands is a HOST step or none at all, and each HOST step keeps the invariant. -/
theorem stepKeepsTheInvariant : Obligations.StepKeepsTheInvariant := by
  intro s t hs h
  have ⟨hidle, _, _⟩ := hs
  rcases step_cases_of_idle hidle h with ⟨-, rfl⟩ | ⟨a, rest, -, h⟩
  · exact hs
  · exact hostStep_inv (s := { s with script := rest }) hs h

/-- Settles O55: reset is a power-up whose free values are drawn at 0. -/
theorem resetMeetsTheInvariant : Obligations.ResetMeetsTheInvariant := powerUp_inv 0

/-! ### The context (10_state.md R42) -/

/-- A command other than a successful INIT writes neither KEY nor RK nor CTX_VALID. -/
theorem commandStep_keeps_context {c : CmdCode} {s t : State} (h : commandStep c s = .next t)
    (hc : c = 0x01 → t.err ≠ .ok) : t.key = s.key ∧ t.rk = s.rk ∧ t.ctxValid = s.ctxValid := by
  rcases commandStep_ends h with ⟨-, -, e, rfl⟩ | ⟨-, e, rfl⟩ | ⟨hinit, k, -, -, rfl⟩ | ⟨-, -, -, -, x, rfl⟩
  · exact ⟨rfl, rfl, rfl⟩
  · exact ⟨rfl, rfl, rfl⟩
  · exact absurd rfl (hc hinit)
  · exact ⟨rfl, rfl, rfl⟩

/-- A HOST step other than a RESET and a successful INIT writes neither KEY nor RK nor CTX_VALID. -/
theorem hostStep_keeps_context {a : HostStep} {s t : State} (h : hostStep Config.capacity a s = .next t)
    (hreset : a ≠ .reset) (hinit : a = .cmd 0x01 → t.err ≠ .ok) :
    t.key = s.key ∧ t.rk = s.rk ∧ t.ctxValid = s.ctxValid := by
  rcases hostStep_cases h with ⟨ha, -⟩ | ⟨x, -, rfl⟩ | ⟨x, -, rfl⟩ | ⟨x, -, rfl⟩ | ⟨c, ha, h⟩ | ⟨y, -, rfl⟩
  · exact absurd ha hreset
  · exact ⟨rfl, rfl, rfl⟩
  · exact ⟨rfl, rfl, rfl⟩
  · exact ⟨rfl, rfl, rfl⟩
  · exact commandStep_keeps_context h fun hc => hinit (by rw [ha, hc])
  · exact ⟨rfl, rfl, rfl⟩

/-- An INIT that ends with OK has taken KEY_IN and its schedule. -/
theorem initCommand_of_ok {s : State} (h : (initCommand s).err = .ok) :
    s.keyIn = some (initCommand s).key.toList ∧ (initCommand s).rk = schedule (initCommand s).key ∧
      (initCommand s).ctxValid = true := by
  rcases initCommand_cases s with ⟨-, e⟩ | ⟨k, -, -, e⟩ | ⟨k, hk, hl, e⟩ <;> rw [e] at h ⊢
  · cases h
  · cases h
  · exact ⟨by simp only [finish_key, toList_toBlock k hl, hk], rfl, rfl⟩

/-- Settles O47, from what each HOST step writes and from the one way INIT ends with OK. -/
theorem contextIsOnlyReplacedWhole : Obligations.ContextIsOnlyReplacedWhole := by
  refine ⟨fun s t hidle h hreset hinit => ?_, fun s t h hok => ?_⟩
  · rcases step_cases_of_idle hidle h with ⟨-, rfl⟩ | ⟨a, rest, hscript, h⟩
    · exact ⟨rfl, rfl, rfl⟩
    · exact hostStep_keeps_context (s := { s with script := rest }) h (fun ha => hreset rest (by rw [hscript, ha]))
        (fun ha => hinit rest (by rw [hscript, ha]))
  · cases h
    exact initCommand_of_ok hok

/-! ### The frame of the micro-operations (10_state.md R40) -/

/-- The micro-operations that can raise an error (60_exceptions.md R191 to R194; an absent slot as log 8 has it). -/
def canRaise : Instr → Bool
  | .expand | .pad | .unpad | .cbcenc | .cbcdec => true
  | _ => false

theorem canRaise_iff (i : Instr) :
    canRaise i = true ↔ i = .expand ∨ i = .pad ∨ i = .unpad ∨ i = .cbcenc ∨ i = .cbcdec := by
  cases i <;> simp [canRaise]

/-- What no micro-operation writes: KEY, CTX_VALID, DATA_OUT and the HOST's side. -/
def State.outside (s : State) : Block × Bool × Option (List Byte) × List HostStep × List Yield :=
  (s.key, s.ctxValid, s.dataOut, s.script, s.yielded)

theorem onKeyIn_cases (run : Block → State → State) (s : State) :
    (∃ e, onKeyIn run s = raise e s) ∨ ∃ key, onKeyIn run s = run key s := by
  cases h : s.keyIn with
  | none => exact .inl ⟨_, onKeyIn_of_absent run s h⟩
  | some k =>
    by_cases hk : k.length = 16
    · exact .inr ⟨toBlock k, onKeyIn_of_key run s _ (by rw [h, toList_toBlock k hk])⟩
    · exact .inl ⟨_, onKeyIn_of_length run s k h hk⟩

/-- CBCENC over the registers writes transients only. -/
theorem cbcEncOp_frame (iv : Block) (d : List Byte) (s : State) :
    (cbcEncOp iv d s).outside = s.outside ∧ (cbcEncOp iv d s).rk = s.rk := by
  obtain ⟨a, b, col, rd, i, n, w, e⟩ := cbcEncOp_eq iv d s
  rw [e]
  exact ⟨rfl, rfl⟩

/-- CBCDEC over the registers writes transients only, also where it raises. -/
theorem cbcDecOp_frame (iv : Block) (c : List Byte) (s : State) :
    (cbcDecOp iv c s).outside = s.outside ∧ (cbcDecOp iv c s).rk = s.rk := by
  by_cases h0 : c.length = 0
  · rw [cbcDecOp, if_pos h0]
    exact ⟨rfl, rfl⟩
  · by_cases h16 : c.length % 16 = 0
    · obtain ⟨t, ⟨a, b, x, col, rd, i, n, rfl⟩, e⟩ := cbcDecOp_eq iv c s h0 h16
      rw [e]
      cases cbcDec s.rk iv c with
      | ok d => exact ⟨rfl, rfl⟩
      | error e => exact ⟨rfl, rfl⟩
    · rw [cbcDecOp, if_neg h0, if_pos h16]
      exact ⟨rfl, rfl⟩

/-- A micro-operation that can raise writes nothing outside, and of them only EXPAND writes RK. -/
theorem exec_frame_of_canRaise {i : Instr} {s t : State} (hi : canRaise i = true) (h : exec i s = .next t) :
    t.outside = s.outside ∧ (i ≠ .expand → t.rk = s.rk) := by
  cases i with
  | expand =>
    cases h
    refine ⟨?_, fun hne => absurd rfl hne⟩
    rcases onKeyIn_cases expandOp s with ⟨e, h⟩ | ⟨key, h⟩ <;> rw [h]
    · rfl
    · obtain ⟨w, rd, n, h⟩ := expandOp_eq key s
      rw [h]
      rfl
  | pad =>
    cases h
    cases s.dataIn with
    | none => exact ⟨rfl, fun _ => rfl⟩
    | some d => exact ⟨rfl, fun _ => rfl⟩
  | unpad =>
    cases h
    cases unpad s.work with
    | ok d => exact ⟨rfl, fun _ => rfl⟩
    | error e => exact ⟨rfl, fun _ => rfl⟩
  | cbcenc =>
    cases h
    cases s.cbcOperands with
    | none => exact ⟨rfl, fun _ => rfl⟩
    | some q =>
      obtain ⟨hout, hrk⟩ := cbcEncOp_frame q.1 q.2 s
      exact ⟨hout, fun _ => hrk⟩
  | cbcdec =>
    cases h
    cases s.cbcOperands with
    | none => exact ⟨rfl, fun _ => rfl⟩
    | some q =>
      obtain ⟨hout, hrk⟩ := cbcDecOp_frame q.1 q.2 s
      exact ⟨hout, fun _ => hrk⟩
  | _ => cases hi

/-- A micro-operation that cannot raise, KSROUND apart, writes S, T, COL, ROUND and the result port only. -/
theorem exec_eq_of_not_canRaise {i : Instr} {s t : State} (hi : i.isCommand = false) (hr : canRaise i = false)
    (hk : ∀ r, i ≠ .ksround r) (h : exec i s = .next t) :
    ∃ b w col rd x, t = { s with regS := b, regT := w, regCol := col, round := rd, result := x } := by
  cases i with
  | init | encrypt | decrypt => cases hi
  | expand | pad | unpad | cbcenc | cbcdec => cases hr
  | ksround r => exact absurd rfl (hk r)
  | rcon r | addroundkey r =>
    obtain ⟨j, -, -, rfl⟩ := (withRoundIndex_eq_next _ _ _ _).1 h
    exact ⟨_, _, _, _, _, rfl⟩
  | encryptblock =>
    obtain ⟨col, e⟩ := encryptBlockOp_eq s
    exact ⟨_, _, _, _, _, (Host.Outcome.next.inj h).symm.trans e⟩
  | decryptblock =>
    obtain ⟨col, e⟩ := decryptBlockOp_eq s
    exact ⟨_, _, _, _, _, (Host.Outcome.next.inj h).symm.trans e⟩
  | xtime | gfmul | sbox | invsbox | rotword | subword =>
    cases h
    exact ⟨_, _, _, _, _, rfl⟩
  | subbytes | invsubbytes | shiftrows | invshiftrows | mixcolumns | invmixcolumns =>
    cases h
    exact ⟨_, _, _, _, _, rfl⟩

/-- A KSROUND that is not refused is that of a round. -/
theorem exec_ksround_eq {r : BitVec 4} {s t : State} (h : exec (.ksround r) s = .next t) :
    ∃ j : Round, t = ksRoundOp j s := by
  obtain ⟨j, -, -, rfl⟩ := (withRoundIndex_eq_next _ _ _ _).1 h
  exact ⟨j, rfl⟩

/-- Settles O49: a micro-operation can raise, or is KSROUND, or writes the registers of the datapath only. -/
theorem microOperationsStayInside : Obligations.MicroOperationsStayInside := by
  intro i s t hi h
  by_cases hr : canRaise i = true
  · obtain ⟨hout, hrk⟩ := exec_frame_of_canRaise hr h
    simp only [State.outside, Prod.mk.injEq] at hout
    obtain ⟨hkey, hctx, hdata, hscript, hyield⟩ := hout
    refine ⟨hkey, hctx, hdata, fun _ => hrk, fun h1 h2 h3 h4 h5 => ?_, hscript, hyield⟩
    rcases (canRaise_iff i).1 hr with h | h | h | h | h <;> contradiction
  · by_cases hk : ∃ r, i = .ksround r
    · obtain ⟨r, rfl⟩ := hk
      obtain ⟨j, rfl⟩ := exec_ksround_eq h
      exact ⟨rfl, rfl, rfl, fun hne => absurd rfl (hne r), fun _ _ _ _ _ => ⟨rfl, rfl, rfl, rfl⟩, rfl, rfl⟩
    · obtain ⟨b, w, col, rd, x, rfl⟩ :=
        exec_eq_of_not_canRaise hi (Bool.eq_false_iff.2 hr) (fun r hne => hk ⟨r, hne⟩) h
      exact ⟨rfl, rfl, rfl, fun _ _ => rfl, fun _ _ _ _ _ => ⟨rfl, rfl, rfl, rfl⟩, rfl, rfl⟩

/-! ### STATUS (10_state.md R36) -/

/-- STATUS is put together from ERR, CTX_VALID, OUT_PRESENT and three zeros, and each can be read back. -/
theorem status_fields (s : State) :
    s.status.extractLsb' 0 3 = BitVec.ofNat 3 s.err.code ∧ s.status.getLsbD 3 = s.ctxValid ∧
      s.status.getLsbD 4 = s.dataOut.isSome ∧ s.status.extractLsb' 5 3 = 0#3 := by
  unfold State.status
  generalize s.dataOut.isSome = out, s.ctxValid = ctx, BitVec.ofNat 3 s.err.code = e
  revert out ctx e
  decide

theorem status_ctxValid (s : State) : s.status.getLsbD 3 = s.ctxValid := by
  obtain ⟨-, h, -, -⟩ := status_fields s
  exact h

theorem status_outPresent (s : State) : s.status.getLsbD 4 = s.dataOut.isSome := by
  obtain ⟨-, -, h, -⟩ := status_fields s
  exact h

theorem errField_code_le (e : ErrField) : e.code ≤ 4 := by
  cases e with
  | ok => decide
  | raised e => cases e <;> decide

theorem raise_err_ne_ok (e : ErrorKind) (s : State) : (raise e s).err ≠ .ok := nofun

/-! That STATUS.ERR is written by every command and read by none, command by command. -/

theorem initCommand_withErr (s : State) (e : ErrField) : initCommand { s with err := e } = initCommand s := by
  match s with
  | { keyIn := none, .. } => rfl
  | { keyIn := some k, .. } =>
    simp only [initCommand]
    cases expand k <;> rfl

theorem encryptCommand_withErr (s : State) (e : ErrField) : encryptCommand { s with err := e } = encryptCommand s := by
  have h : State.cipherOperands { s with err := e, dataOut := none } = State.cipherOperands { s with dataOut := none } := rfl
  simp only [encryptCommand, h]
  cases State.cipherOperands { s with dataOut := none } <;> rfl

theorem decryptCommand_withErr (s : State) (e : ErrField) : decryptCommand { s with err := e } = decryptCommand s := by
  have h : State.cipherOperands { s with err := e, dataOut := none } = State.cipherOperands { s with dataOut := none } := rfl
  simp only [decryptCommand, h]
  cases State.cipherOperands { s with dataOut := none } with
  | none => rfl
  | some q =>
    dsimp only
    cases cbcDec q.1 q.2.1 q.2.2 <;> rfl

/-- No command reads what STATUS.ERR was before, and each writes it. -/
theorem commandStep_withErr (c : CmdCode) (s : State) (e : ErrField) :
    commandStep c { s with err := e } = commandStep c s := by
  unfold commandStep
  rcases decodeCmd_cases c with ⟨-, h⟩ | ⟨-, h⟩ | ⟨-, h⟩ | ⟨-, -, -, h⟩ <;> rw [h]
  · exact congrArg Host.Outcome.next (initCommand_withErr s e)
  · exact congrArg Host.Outcome.next (encryptCommand_withErr s e)
  · exact congrArg Host.Outcome.next (decryptCommand_withErr s e)
  · rfl

theorem commandStep_next (c : CmdCode) (s : State) : ∃ t, commandStep c s = .next t := by
  rcases commandStep_cases c s with ⟨-, h⟩ | ⟨-, h⟩ | ⟨-, h⟩ | ⟨-, -, -, h⟩ <;> exact ⟨_, h⟩

/-- Settles O46: the layout of the byte, and for the writers the four ways in which a command ends. -/
theorem statusRegisterFields : Obligations.StatusRegisterFields := by
  refine ⟨fun s => ?_, ⟨rfl, rfl, rfl, rfl, rfl⟩, fun caps s => ⟨_, rfl, rfl, rfl⟩, fun c s e => ?_, fun c s t h => ?_⟩
  · obtain ⟨herr, hctx, hout, hzero⟩ := status_fields s
    exact ⟨herr, errField_code_le s.err, hctx, hout, hzero⟩
  · obtain ⟨t, h⟩ := commandStep_next c s
    exact ⟨t, t, h, (commandStep_withErr c s e).trans h, rfl⟩
  · simp only [status_ctxValid, status_outPresent]
    rcases commandStep_ends h with ⟨h2, h3, e, rfl⟩ | ⟨hc, e, rfl⟩ | ⟨rfl, k, -, -, rfl⟩ | ⟨hc, hv, -, -, x, rfl⟩
    · exact ⟨fun hne => absurd rfl hne, fun _ hok => absurd hok (raise_err_ne_ok _ _), fun hne => absurd rfl hne,
        fun hc => absurd hc (not_or.2 ⟨h2, h3⟩)⟩
    · exact ⟨fun hne => absurd rfl hne, fun _ hok => absurd hok (raise_err_ne_ok _ _), fun _ => hc, fun _ => by simp⟩
    · simp
    · exact ⟨fun hne => absurd rfl hne, fun _ _ => hv, fun _ => hc, fun _ => by simp⟩

end Sys2Proof.Machine
end

section
/-! PROOFS of the family 20_memory.md: the operand slots no instruction writes (R67), a command taken twice (R59), and loads on
a build with finite capacities (R68). -/

namespace Sys2Proof.Machine

/-! ### Operand slots (20_memory.md R67) -/

/-- The three slots a HOST fills for a command: KEY_IN, IV and DATA_IN. -/
def State.operandSlots (s : State) : Option (List Byte) × Option Block × Option (List Byte) := (s.keyIn, s.iv, s.dataIn)

theorem commandStep_operandSlots {c : CmdCode} {s t : State} (h : commandStep c s = .next t) :
    t.operandSlots = s.operandSlots := by
  rcases commandStep_ends h with ⟨-, -, e, rfl⟩ | ⟨-, e, rfl⟩ | ⟨-, k, -, -, rfl⟩ | ⟨-, -, -, -, x, rfl⟩
  · rfl
  · rfl
  · rfl
  · rfl

theorem cbcDecOp_operandSlots (iv : Block) (c : List Byte) (s : State) :
    (cbcDecOp iv c s).operandSlots = s.operandSlots := by
  by_cases h0 : c.length = 0
  · rw [cbcDecOp, if_pos h0]
    rfl
  · by_cases h16 : c.length % 16 = 0
    · obtain ⟨t, ⟨a, b, x, col, rd, i, n, rfl⟩, e⟩ := cbcDecOp_eq iv c s h0 h16
      rw [e]
      cases cbcDec s.rk iv c with
      | ok d => rfl
      | error e => rfl
    · rw [cbcDecOp, if_neg h0, if_pos h16]
      rfl

/-- A micro-operation that can raise reads its slots and writes none, whether it raises or not. -/
theorem exec_operandSlots_of_canRaise {i : Instr} {s t : State} (hi : canRaise i = true) (h : exec i s = .next t) :
    t.operandSlots = s.operandSlots := by
  cases i with
  | expand =>
    cases h
    rcases onKeyIn_cases expandOp s with ⟨e, h⟩ | ⟨key, h⟩ <;> rw [h]
    · rfl
    · obtain ⟨w, rd, n, h⟩ := expandOp_eq key s
      rw [h]
      rfl
  | pad =>
    cases h
    split <;> rfl
  | unpad =>
    cases h
    cases unpad s.work <;> rfl
  | cbcenc =>
    cases h
    cases s.cbcOperands with
    | none => rfl
    | some q =>
      obtain ⟨a, b, col, rd, k, n, w, e⟩ := cbcEncOp_eq q.1 q.2 s
      dsimp only
      rw [e]
      rfl
  | cbcdec =>
    cases h
    cases s.cbcOperands with
    | none => rfl
    | some q => exact cbcDecOp_operandSlots q.1 q.2 s
  | _ => cases hi

/-- A micro-operation can raise, or is KSROUND, or writes the registers of the datapath only: none writes an operand slot. -/
theorem exec_operandSlots_of_microOperation {i : Instr} {s t : State} (hi : i.isCommand = false)
    (h : exec i s = .next t) : t.operandSlots = s.operandSlots := by
  by_cases hr : canRaise i = true
  · exact exec_operandSlots_of_canRaise hr h
  · by_cases hk : ∃ r, i = .ksround r
    · obtain ⟨r, rfl⟩ := hk
      obtain ⟨j, rfl⟩ := exec_ksround_eq h
      rfl
    · obtain ⟨b, w, col, rd, x, rfl⟩ :=
        exec_eq_of_not_canRaise hi (Bool.eq_false_iff.2 hr) (fun r hne => hk ⟨r, hne⟩) h
      rfl

theorem exec_operandSlots {i : Instr} {s t : State} (h : exec i s = .next t) : t.operandSlots = s.operandSlots := by
  cases hi : i.isCommand with
  | false => exact exec_operandSlots_of_microOperation hi h
  | true =>
    cases i with
    | init => exact commandStep_operandSlots (c := 0x01) h
    | encrypt => exact commandStep_operandSlots (c := 0x02) h
    | decrypt => exact commandStep_operandSlots (c := 0x03) h
    | _ => cases hi

/-- A command other than ENCRYPT and DECRYPT leaves DATA_OUT alone. -/
theorem commandStep_keeps_dataOut {c : CmdCode} {s t : State} (h : commandStep c s = .next t) (h2 : c ≠ 0x02)
    (h3 : c ≠ 0x03) : t.dataOut = s.dataOut := by
  have hc : ¬ (c = 0x02 ∨ c = 0x03) := not_or.2 ⟨h2, h3⟩
  rcases commandStep_ends h with ⟨-, -, e, rfl⟩ | ⟨hown, -⟩ | ⟨-, k, -, -, rfl⟩ | ⟨hown, -⟩
  · rfl
  · exact absurd hown hc
  · rfl
  · exact absurd hown hc

/-- Settles O48: the slots instruction by instruction; DATA_OUT from the ends of INIT and the frame of the
micro-operations. -/
theorem operandBuffersArePreserved : Obligations.OperandBuffersArePreserved := by
  intro i s t h
  have hslots := exec_operandSlots h
  simp only [State.operandSlots, Prod.mk.injEq] at hslots
  obtain ⟨hkey, hiv, hdata⟩ := hslots
  refine ⟨hkey, hiv, hdata, fun henc hdec => ?_⟩
  cases hi : i.isCommand with
  | false =>
    obtain ⟨-, -, hout, -⟩ := microOperationsStayInside i s t hi h
    exact hout
  | true =>
    cases i with
    | init => exact commandStep_keeps_dataOut (c := 0x01) h (by decide) (by decide)
    | encrypt => exact absurd rfl henc
    | decrypt => exact absurd rfl hdec
    | _ => cases hi

/-! ### The same command again (20_memory.md R59) -/

/-- The error an INIT ends with depends on KEY_IN alone. -/
theorem initCommand_err_congr {s s' : State} (h : s.keyIn = s'.keyIn) :
    (initCommand s).err = (initCommand s').err := by
  rw [initCommand, initCommand, h]
  cases s'.keyIn with
  | none => rfl
  | some k =>
    dsimp only
    cases expand k <;> rfl

/-- What ENCRYPT ends with and publishes depends on its operands alone, not on the DATA_OUT before it. -/
theorem encryptCommand_outcome_congr {s s' : State} (h : s.cipherOperands = s'.cipherOperands) :
    (encryptCommand s).err = (encryptCommand s').err ∧ (encryptCommand s).dataOut = (encryptCommand s').dataOut := by
  have hs : State.cipherOperands { s with dataOut := none } = State.cipherOperands { s' with dataOut := none } := h
  simp only [encryptCommand, hs]
  cases State.cipherOperands { s' with dataOut := none } with
  | none => exact ⟨rfl, rfl⟩
  | some q => exact ⟨rfl, rfl⟩

/-- What DECRYPT ends with and publishes depends on its operands alone, not on the DATA_OUT before it. -/
theorem decryptCommand_outcome_congr {s s' : State} (h : s.cipherOperands = s'.cipherOperands) :
    (decryptCommand s).err = (decryptCommand s').err ∧ (decryptCommand s).dataOut = (decryptCommand s').dataOut := by
  have hs : State.cipherOperands { s with dataOut := none } = State.cipherOperands { s' with dataOut := none } := h
  simp only [decryptCommand, hs]
  cases State.cipherOperands { s' with dataOut := none } with
  | none => exact ⟨rfl, rfl⟩
  | some q =>
    dsimp only
    cases cbcDec q.1 q.2.1 q.2.2 with
    | error e => exact ⟨rfl, rfl⟩
    | ok p => exact ⟨rfl, rfl⟩

/-- A command other than INIT leaves the next one the operands it had itself. -/
theorem commandStep_keeps_cipherOperands {c : CmdCode} {s t : State} (h : commandStep c s = .next t) (hc : c ≠ 0x01) :
    t.cipherOperands = s.cipherOperands := by
  obtain ⟨-, hrk, hctx⟩ := commandStep_keeps_context h fun hinit => absurd hinit hc
  have hslots := commandStep_operandSlots h
  simp only [State.operandSlots, Prod.mk.injEq] at hslots
  obtain ⟨-, hiv, hdata⟩ := hslots
  simp only [State.cipherOperands, hctx, hrk, hiv, hdata]

/-- A second run of a command ends with the same error and leaves the same DATA_OUT: it finds what the first one read. -/
theorem commandStep_twice_outcome {c : CmdCode} {s t u : State} (ht : commandStep c s = .next t)
    (hu : commandStep c t = .next u) : u.err = t.err ∧ u.dataOut = t.dataOut := by
  have hslots := commandStep_operandSlots ht
  have hops := commandStep_keeps_cipherOperands ht
  have hout := commandStep_keeps_dataOut hu
  rcases decodeCmd_cases c with ⟨rfl, hd⟩ | ⟨rfl, hd⟩ | ⟨rfl, hd⟩ | ⟨-, h2, h3, hd⟩ <;>
    rw [commandStep, hd] at ht hu <;> cases ht <;> cases hu
  · exact ⟨initCommand_err_congr (congrArg Prod.fst hslots), hout (by decide) (by decide)⟩
  · exact encryptCommand_outcome_congr (hops (by decide))
  · exact decryptCommand_outcome_congr (hops (by decide))
  · exact ⟨rfl, hout h2 h3⟩

/-- What CTX_VALID is after a command taken twice: a successful INIT makes it true both times, and nothing else writes it. -/
theorem commandStep_twice_ctxValid {c : CmdCode} {s t u : State} (ht : commandStep c s = .next t)
    (hu : commandStep c t = .next u) : u.ctxValid = t.ctxValid := by
  obtain ⟨herr, -⟩ := commandStep_twice_outcome ht hu
  by_cases hinit : c = 0x01 ∧ u.err = .ok
  · obtain ⟨rfl, hok⟩ := hinit
    cases ht
    cases hu
    obtain ⟨-, -, hfirst⟩ := initCommand_of_ok (herr.symm.trans hok)
    obtain ⟨-, -, hagain⟩ := initCommand_of_ok hok
    exact hagain.trans hfirst.symm
  · obtain ⟨-, -, hctx⟩ := commandStep_keeps_context hu fun hc hok => hinit ⟨hc, hok⟩
    exact hctx

/-- Settles O51: the operands a command reads outlast it, so the second run ends as the first; a read appends what it
yields. -/
theorem commandsAreIdempotent : Obligations.CommandsAreIdempotent := by
  refine ⟨fun c s t u ht hu => ?_, fun caps a s ha => ?_⟩
  · obtain ⟨herr, hout⟩ := commandStep_twice_outcome ht hu
    have hctx := commandStep_twice_ctxValid ht hu
    exact ⟨by simp only [State.status, herr, hout, hctx], hout⟩
  · rcases ha with rfl | rfl
    · exact ⟨.status s.status, rfl⟩
    · exact ⟨.out s.dataOut, rfl⟩

/-! ### Capacities (20_memory.md R68) -/

@[simp] theorem fits_some (c n : Nat) : Config.fits (some c) n = true ↔ n ≤ c := by
  simp [Config.fits]

theorem loadWithin_of_fits {cap : Option Nat} {n : Nat} (h : Config.fits cap n = true) (s : State) :
    loadWithin cap n s = .next s := by
  rw [loadWithin, if_pos h]

theorem loadWithin_of_not_fits {cap : Option Nat} {n : Nat} (h : ¬ Config.fits cap n = true) (s : State) :
    loadWithin cap n s = .fault .loadBeyondCapacity := by
  rw [loadWithin, if_neg h]

theorem fits_mono {cap : Option Nat} {m n : Nat} (hmn : m ≤ n) (h : Config.fits cap n = true) :
    Config.fits cap m = true := by
  cases cap with
  | none => rfl
  | some c => exact (fits_some c m).2 (hmn.trans ((fits_some c n).1 h))

/-- OUT_CAP leaves room for the padding, one block at most, beyond what DATA_IN can hold (00_scope.md R8). -/
theorem fits_outCap {caps : Config.Capacity} {m n : Nat} (hmn : m ≤ n + 16) (h : Config.fits caps.dataCap n = true) :
    Config.fits caps.outCap m = true := by
  rw [Config.Capacity.outCap]
  cases hcap : caps.dataCap with
  | none => rfl
  | some c =>
    rw [hcap, fits_some] at h
    exact (fits_some (c + 16) m).2 (by omega)

theorem pad_length (d : List Byte) : (pad d).length = d.length + (16 - d.length % 16) := by
  simp [pad, Config.blockBytes]

/-- The output of CBCENC has the whole blocks of the padded message, at most one more than the message fills. -/
theorem cbcEnc_length_le (rk : Schedule) (iv : Block) (p : List Byte) : (cbcEnc rk iv p).length ≤ p.length + 16 := by
  rw [cbcEnc, cbcEncLoop_length, pad_length]
  omega

/-- Settles O60: a load is made exactly when its length fits, and a padded message is at most 16 bytes longer. -/
theorem loadsRespectCapacity : Obligations.LoadsRespectCapacity := by
  refine ⟨fun n m s x => ⟨fun h => ?_, fun h => ?_, fun h => ?_, fun h => ?_⟩, fun caps s k hlegal hk => ?_,
    fun s x => rfl, fun caps rk iv p h => fits_outCap (cbcEnc_length_le rk iv p) h⟩
  · exact loadWithin_of_fits ((fits_some n x.length).2 h) (loadData x s)
  · exact loadWithin_of_not_fits (mt (fits_some n x.length).1 (by omega)) (loadData x s)
  · exact loadWithin_of_fits ((fits_some m x.length).2 h) (loadKey x s)
  · exact loadWithin_of_not_fits (mt (fits_some m x.length).1 (by omega)) (loadKey x s)
  · exact loadWithin_of_fits (fits_mono hk hlegal) (loadKey k s)

end Sys2Proof.Machine
end

section
/-! PROOFS of the family 30_encoding.md: the two fields of a micro-operation code, that decoder and encoder undo each other
(R78), the reserved codes (R76), where a step takes its instruction from (R70) and the HOST's port accesses (R80). -/

namespace Sys2Proof.Machine

/-! ### The two fields of a micro-operation code (30_encoding.md R74) -/

/-- The code with `row` in bits 11:4 and `r` in bits 3:0. -/
def codeOf (row : BitVec 8) (r : BitVec 4) : UopCode := row.setWidth 12 <<< 4 ||| r.setWidth 12

@[simp] theorem uopRow_codeOf (row : BitVec 8) (r : BitVec 4) : uopRow (codeOf row r) = row := by
  ext i hi
  have h12 : 4 + i < 12 := by omega
  simp [uopRow, codeOf, h12, Nat.lt_of_lt_of_le hi]

@[simp] theorem uopRound_codeOf (row : BitVec 8) (r : BitVec 4) : uopRound (codeOf row r) = r := by
  ext i hi
  simp [uopRound, codeOf, hi, Nat.lt_of_lt_of_le hi]

/-- A code has no bits but those of its two fields. -/
theorem codeOf_fields (c : UopCode) : codeOf (uopRow c) (uopRound c) = c := by
  ext i hi
  by_cases h : i < 4
  · simp [uopRow, uopRound, codeOf, h, hi]
  · have hsum : 4 + (i - 4) = i := by omega
    have hrow : i - 4 < 8 := by omega
    simp [uopRow, uopRound, codeOf, h, hi, hsum, hrow]

/-! ### The two kinds of rows (30_encoding.md R75) -/

theorem plainRow_eq_ok (c : UopCode) (i j : Instr) : plainRow c j = .ok i ↔ uopRound c = 0 ∧ j = i := by
  unfold plainRow
  by_cases h : uopRound c = 0#4 <;> simp [h]

theorem roundRow_eq_ok (c : UopCode) (i j : Instr) : roundRow c j = .ok i ↔ j.wellFormed = true ∧ j = i := by
  unfold roundRow
  by_cases h : j.wellFormed = true <;> simp [h]

theorem roundRow_refuses (c : UopCode) {i : Instr} (h : ¬ i.wellFormed = true) : ∃ e, roundRow c i = .error e :=
  ⟨_, if_neg h⟩

/-- The three rows with a round index, whatever the sixteen values of the field. -/
theorem decodeUop_rconRow (r : BitVec 4) : decodeUop (codeOf 0x32 r) = roundRow (codeOf 0x32 r) (.rcon r) := by
  simp [decodeUop]

theorem decodeUop_ksroundRow (r : BitVec 4) : decodeUop (codeOf 0x33 r) = roundRow (codeOf 0x33 r) (.ksround r) := by
  simp [decodeUop]

theorem decodeUop_addroundkeyRow (r : BitVec 4) :
    decodeUop (codeOf 0x46 r) = roundRow (codeOf 0x46 r) (.addroundkey r) := by
  simp [decodeUop]

/-! ### Decoding a code that was encoded (30_encoding.md R78) -/

/-- The rows without a round index are closed codes; the other three accept exactly the well-formed round indices. -/
theorem decode_encode {i : Instr} (h : i.wellFormed = true) : decode (encode i) = .ok i := by
  cases i
  case rcon r => exact (decodeUop_rconRow r).trans ((roundRow_eq_ok _ _ _).2 ⟨h, rfl⟩)
  case ksround r => exact (decodeUop_ksroundRow r).trans ((roundRow_eq_ok _ _ _).2 ⟨h, rfl⟩)
  case addroundkey r => exact (decodeUop_addroundkeyRow r).trans ((roundRow_eq_ok _ _ _).2 ⟨h, rfl⟩)
  all_goals rfl

/-- Settles O1: row by row. -/
theorem decodeOfEncodeIsIdentity : Obligations.DecodeOfEncodeIsIdentity :=
  fun _ h => decode_encode h

/-! ### Encoding an instruction that was decoded (30_encoding.md R78) -/

/-- A row without a round index accepts no code but its instruction's own. -/
theorem encode_of_plainRow {c : UopCode} {i j : Instr} {row : Nat} (hrow : (uopRow c).toNat = row)
    (hcode : encode j = .uop (codeOf (BitVec.ofNat 8 row) 0)) (hwf : j.wellFormed = true) (h : plainRow c j = .ok i) :
    i.wellFormed = true ∧ encode i = .uop c := by
  obtain ⟨hround, rfl⟩ := (plainRow_eq_ok c i j).1 h
  subst hrow
  exact ⟨hwf, by rw [hcode, BitVec.ofNat_toNat, BitVec.setWidth_eq, ← hround, codeOf_fields]⟩

/-- A row with a round index accepts no code but that of its instruction with the index in the code. -/
theorem encode_of_roundRow {c : UopCode} {i j : Instr} {row : Nat} (hrow : (uopRow c).toNat = row)
    (hcode : encode j = .uop (codeOf (BitVec.ofNat 8 row) (uopRound c))) (h : roundRow c j = .ok i) :
    i.wellFormed = true ∧ encode i = .uop c := by
  obtain ⟨hwf, rfl⟩ := (roundRow_eq_ok c i j).1 h
  subst hrow
  exact ⟨hwf, by rw [hcode, BitVec.ofNat_toNat, BitVec.setWidth_eq, codeOf_fields]⟩

theorem encode_of_decodeUop {c : UopCode} {i : Instr} (h : decodeUop c = .ok i) :
    i.wellFormed = true ∧ encode i = .uop c := by
  unfold decodeUop at h
  split at h
  case h_7 hrow | h_8 hrow | h_16 hrow => exact encode_of_roundRow hrow rfl h
  case h_23 => cases h
  all_goals exact encode_of_plainRow ‹_› rfl rfl h

theorem encode_of_decodeCmd {c : CmdCode} {i : Instr} (h : decodeCmd c = .ok i) :
    i.wellFormed = true ∧ encode i = .cmd c := by
  rcases decodeCmd_cases c with ⟨rfl, hd⟩ | ⟨rfl, hd⟩ | ⟨rfl, hd⟩ | ⟨-, -, -, hd⟩
  · cases hd.symm.trans h
    exact ⟨rfl, rfl⟩
  · cases hd.symm.trans h
    exact ⟨rfl, rfl⟩
  · cases hd.symm.trans h
    exact ⟨rfl, rfl⟩
  · cases hd.symm.trans h

/-- Settles O2: the row and the round index a code is decoded by make up the whole code. -/
theorem encodeOfDecodeIsIdentity : Obligations.EncodeOfDecodeIsIdentity := by
  intro c i h
  cases c with
  | cmd c => exact encode_of_decodeCmd h
  | uop c => exact encode_of_decodeUop h

/-! ### Reserved and issued micro-operation codes (30_encoding.md R76) -/

theorem decodeUop_refuses_of_not_encoded {c : UopCode} (h : ∀ i : Instr, i.wellFormed = true → encode i ≠ .uop c) :
    ∃ e, decodeUop c = .error e := by
  cases hd : decodeUop c with
  | error e => exact ⟨e, rfl⟩
  | ok i =>
    obtain ⟨hwf, hcode⟩ := encode_of_decodeUop hd
    exact absurd hcode (h i hwf)

theorem uopStep_of_decodeUop_error {c : UopCode} {e : Reject} (h : decodeUop c = .error e) (s : State) :
    uopStep c s = .refused .reservedMicroOp := by
  simp only [uopStep, h]

/-- A round index below the row's least or above 10 stands for no legal code. -/
theorem not_wellFormed_of_round_outside {i : Instr} {r : BitVec 4} (hr : i.round? = some r)
    (h : r.toNat < i.leastRound ∨ 10 < r.toNat) : ¬ i.wellFormed = true := by
  simp only [Instr.wellFormed, hr, decide_eq_true_eq]
  omega

/-- What an issued code stands for. -/
def IsMicroOperation (c : UopCode) : Prop :=
  ∃ i : Instr, decodeUop c = .ok i ∧ i.wellFormed = true ∧ i.isCommand = false

/-- An instruction whose code lies in the UOP space is no command. -/
theorem isCommand_eq_false_of_encode {i : Instr} {c : UopCode} (h : encode i = .uop c) : i.isCommand = false := by
  cases i
  case init | encrypt | decrypt => cases h
  all_goals rfl

theorem uopCode_eq_some (i : Instr) (c : UopCode) : uopCode i = some c ↔ encode i = .uop c := by
  unfold uopCode
  cases encode i <;> simp

theorem isMicroOperation_of_mem_issue {c : UopCode} {is : List Instr} (his : ∀ i ∈ is, i.wellFormed = true)
    (h : .issue c ∈ issue is) : IsMicroOperation c := by
  simp only [issue, List.mem_map, List.mem_filterMap, SeqStep.issue.injEq, exists_eq_right, uopCode_eq_some] at h
  obtain ⟨i, hi, hcode⟩ := h
  have hdec : decode (.uop c) = .ok i := hcode ▸ decode_encode (his i hi)
  exact ⟨i, hdec, his i hi, isCommand_eq_false_of_encode hcode⟩

theorem encStages_wellFormed : ∀ r : Round, ∀ i ∈ encStages r, i.wellFormed = true := by decide

theorem decStages_wellFormed : ∀ r : Round, ∀ i ∈ decStages r, i.wellFormed = true := by decide

/-- The key-schedule machine issues RCON and KSROUND with the rounds 1 to 10 only (42_key_schedule.md R119). -/
theorem keyStages_wellFormed : ∀ r ∈ expandRounds, ∀ i ∈ keyStages r, i.wellFormed = true := by decide

theorem isMicroOperation_of_mem_encryptBlockSteps {b : Block} {c : UopCode} (h : .issue c ∈ encryptBlockSteps b) :
    IsMicroOperation c := by
  simp only [encryptBlockSteps, encRoundSteps, List.mem_cons, List.mem_flatMap, reduceCtorEq, false_or] at h
  obtain ⟨r, -, h⟩ := h
  exact isMicroOperation_of_mem_issue (encStages_wellFormed r) h

theorem isMicroOperation_of_mem_decryptBlockSteps {b : Block} {c : UopCode} (h : .issue c ∈ decryptBlockSteps b) :
    IsMicroOperation c := by
  simp only [decryptBlockSteps, decRoundSteps, List.mem_cons, List.mem_flatMap, reduceCtorEq, false_or] at h
  obtain ⟨r, -, h⟩ := h
  exact isMicroOperation_of_mem_issue (decStages_wellFormed r) h

theorem isMicroOperation_of_mem_expandSteps {c : UopCode} (h : .issue c ∈ expandSteps) : IsMicroOperation c := by
  simp only [expandSteps, keyRoundSteps, List.mem_append, List.mem_cons, List.mem_flatMap, List.not_mem_nil, reduceCtorEq,
    false_or, or_false] at h
  obtain ⟨r, hr, h⟩ := h
  exact isMicroOperation_of_mem_issue (keyStages_wellFormed r hr) h

/-- Settles O3: a code the decoder accepts is some instruction's own, and every issued code is made by the encoder. -/
theorem reservedMicroOperationsAreRefused : Obligations.ReservedMicroOperationsAreRefused := by
  refine ⟨fun c s h => ?_, fun r hr => ?_, fun r hr => ?_, fun b c h => ?_⟩
  · obtain ⟨e, he⟩ := decodeUop_refuses_of_not_encoded h
    exact ⟨⟨e, he⟩, uopStep_of_decodeUop_error he s⟩
  · have hrange : r.toNat < 1 ∨ 10 < r.toNat := hr.imp_left (fun h0 => by rw [h0]; decide)
    obtain ⟨e, he⟩ := roundRow_refuses (codeOf 0x32 r) (not_wellFormed_of_round_outside (i := .rcon r) rfl hrange)
    obtain ⟨e', he'⟩ := roundRow_refuses (codeOf 0x33 r) (not_wellFormed_of_round_outside (i := .ksround r) rfl hrange)
    exact ⟨⟨e, (decodeUop_rconRow r).trans he⟩, ⟨e', (decodeUop_ksroundRow r).trans he'⟩⟩
  · obtain ⟨e, he⟩ := roundRow_refuses (codeOf 0x46 r) (not_wellFormed_of_round_outside (i := .addroundkey r) rfl (.inr hr))
    exact ⟨e, (decodeUop_addroundkeyRow r).trans he⟩
  · rcases List.mem_append.1 h with h | h
    · rcases List.mem_append.1 h with h | h
      · exact isMicroOperation_of_mem_encryptBlockSteps h
      · exact isMicroOperation_of_mem_decryptBlockSteps h
    · exact isMicroOperation_of_mem_expandSteps h

/-- Settles O4: each of the nine is the code the encoder gives its instruction. -/
theorem writtenOutCodesDecode : Obligations.WrittenOutCodesDecode :=
  ⟨decode_encode (i := .init) rfl, decode_encode (i := .decrypt) rfl, decode_encode (i := .gfmul) rfl,
    decode_encode (i := .invsbox) rfl, decode_encode (i := .ksround 10) rfl, decode_encode (i := .addroundkey 0) rfl,
    decode_encode (i := .decryptblock) rfl, decode_encode (i := .pad) rfl, decode_encode (i := .cbcdec) rfl⟩

/-! ### Where a step takes its instruction from (30_encoding.md R70, R80) -/

theorem step_of_issue {s : State} {c : UopCode} {rest : List SeqStep} (hs : s.seq = .issue c :: rest) :
    step s = uopStep c { s with seq := rest } := by
  simp only [step, stepWith, hs, sequencerStep]

theorem step_of_hostStep {s : State} {a : HostStep} {rest : List HostStep} (hs : s.seq = []) (ha : s.script = a :: rest) :
    step s = hostStep Config.capacity a { s with script := rest } := by
  simp only [step, stepWith, hs, ha]

theorem commandStep_of_decodeCmd {c : CmdCode} {i : Instr} (h : decodeCmd c = .ok i) (s : State) :
    commandStep c s = exec i s := by
  simp only [commandStep, h]

theorem uopStep_of_decodeUop {c : UopCode} {i : Instr} (h : decodeUop c = .ok i) (s : State) :
    uopStep c s = exec i s := by
  simp only [uopStep, h]

/-- A command written with the sequencer idle is the next step's instruction. -/
theorem step_of_command {s : State} {c : CmdCode} {rest : List HostStep} {i : Instr} (hs : s.seq = [])
    (ha : s.script = .cmd c :: rest) (h : decodeCmd c = .ok i) : step s = exec i { s with script := rest } :=
  (step_of_hostStep hs ha).trans (commandStep_of_decodeCmd h _)

/-- An issued micro-operation is the next step's instruction. -/
theorem step_of_microOperation {s : State} {c : UopCode} {rest : List SeqStep} {i : Instr} (hs : s.seq = .issue c :: rest)
    (h : decodeUop c = .ok i) : step s = exec i { s with seq := rest } :=
  (step_of_issue hs).trans (uopStep_of_decodeUop h _)

/-- The code of a decoded table word; only a word of at most 8 bits is a command's. -/
theorem decodeTableWord_eq_some {nbits w : Nat} {i : Instr} (h : decodeTableWord nbits w = some i) :
    ∃ c, tableCode nbits w = some c ∧ decode c = .ok i := by
  unfold decodeTableWord at h
  cases hc : tableCode nbits w with
  | none => simp [hc] at h
  | some c =>
    simp only [hc] at h
    cases hd : decode c with
    | error e => simp [hd, Except.toOption] at h
    | ok j =>
      simp only [hd, Except.toOption, Option.some.injEq] at h
      exact ⟨c, rfl, by rw [hd, h]⟩

theorem le_of_tableCode_eq_cmd {nbits w : Nat} {c : CmdCode} (h : tableCode nbits w = some (.cmd c)) : nbits ≤ 8 := by
  by_contra hn
  simp [tableCode, hn] at h

/-- Settles O58: the step takes the waiting code, and `withFetchWord` makes the table word's code the waiting one. -/
theorem stepRunsTheDecodedInstruction : Obligations.StepRunsTheDecodedInstruction := by
  refine ⟨fun s c rest i hs ha h => step_of_command hs ha h, fun s c rest i hs h => step_of_microOperation hs h,
    fun s nbits w i h => ?_⟩
  obtain ⟨c, hc, hd⟩ := decodeTableWord_eq_some h
  simp only [State.withFetchWord, hc]
  cases c with
  | cmd c => exact ⟨[], step_of_command rfl rfl hd, fun h8 => absurd (le_of_tableCode_eq_cmd hc) (by omega)⟩
  | uop c => exact ⟨s.seq, step_of_microOperation rfl hd, fun _ => rfl⟩

/-! ### The HOST's port accesses (30_encoding.md R80) -/

/-- RESET leaves of what persists just what a power-up leaves: nothing, and STATUS.ERR 0 (10_state.md R41). -/
theorem resetCore_persistent (s : State) : (resetCore s).persistent = State.reset.persistent := rfl

theorem resetCore_status (s : State) : (resetCore s).status = 0x00 := by
  simp [State.status, ErrField.code]

/-- Settles O59: each access by its own operation; with the default capacities a load of any length fits. -/
theorem hostPortAccesses : Obligations.HostPortAccesses := by
  refine ⟨fun caps s => ⟨resetCore s, rfl, resetCore_persistent s, resetCore_status s⟩, fun s x => ?_, fun s x => ?_,
    fun caps s iv => rfl, fun caps s => rfl, fun caps s => rfl, fun caps s c => rfl⟩
  · exact loadWithin_of_fits rfl (loadKey x s)
  · exact loadWithin_of_fits rfl (loadData x s)

end Sys2Proof.Machine
end

section
/-! PROOFS of the family 40_gf_arithmetic.md: GFMUL is the product in the two-element polynomials modulo the reduction
polynomial (R93), from which its laws follow (R94); XTIME (R91); and what the byte functions write (R97). -/

namespace Sys2Proof.Machine

open Polynomial

/-! ### Bytes as polynomials over the two-element field (40_gf_arithmetic.md R90) -/

/-- The polynomial of the low `n` bits of a byte. -/
noncomputable def bitPoly (n : Nat) (b : Byte) : (ZMod 2)[X] :=
  ∑ i ∈ Finset.range n, if b.getLsbD i = true then X ^ i else 0

/-- The polynomial a byte stands for. -/
noncomputable def bytePoly (b : Byte) : (ZMod 2)[X] := bitPoly 8 b

/-- The reduction polynomial, 0x11B. -/
noncomputable def reductionPoly : (ZMod 2)[X] := X ^ 8 + X ^ 4 + X ^ 3 + X + 1

theorem bitPoly_succ_top (n : Nat) (b : Byte) :
    bitPoly (n + 1) b = bitPoly n b + if b.getLsbD n = true then X ^ n else 0 :=
  Finset.sum_range_succ ..

/-- Taking off the lowest bit is dividing by x. -/
theorem bitPoly_succ (n : Nat) (b : Byte) :
    bitPoly (n + 1) b = (if b.getLsbD 0 = true then 1 else 0 : (ZMod 2)[X]) + X * bitPoly n (b >>> 1) := by
  simp only [bitPoly, Finset.sum_range_succ', Finset.mul_sum, BitVec.getLsbD_ushiftRight, mul_ite, mul_zero, pow_zero,
    pow_succ', Nat.add_comm 1]
  rw [add_comm]

theorem coeff_bitPoly (n : Nat) (b : Byte) (i : Nat) :
    (bitPoly n b).coeff i = if i < n ∧ b.getLsbD i = true then 1 else 0 := by
  rw [bitPoly, ← Finset.sum_filter, finsetSum_coeff]
  simp only [coeff_X_pow, Finset.sum_ite_eq, Finset.mem_filter, Finset.mem_range]

/-- Addition in the field is XOR. -/
theorem bytePoly_xor (a b : Byte) : bytePoly (a ^^^ b) = bytePoly a + bytePoly b := by
  ext1 i
  simp only [bytePoly, coeff_add, coeff_bitPoly, BitVec.getLsbD_xor]
  by_cases hi : i < 8
  · cases a.getLsbD i <;> cases b.getLsbD i <;> simp [hi, CharTwo.add_self_eq_zero]
  · simp [hi]

@[simp] theorem bytePoly_zero : bytePoly 0x00 = 0 := by
  simp [bytePoly, bitPoly]

theorem bytePoly_eq_zero {b : Byte} (h : bytePoly b = 0) : b = 0x00 := by
  refine BitVec.eq_of_getLsbD_eq fun i hi => ?_
  have hcoeff : (if i < 8 ∧ b.getLsbD i = true then (1 : ZMod 2) else 0) = 0 := by
    rw [← coeff_bitPoly, ← bytePoly, h, coeff_zero]
  simpa [hi] using hcoeff

theorem degree_bytePoly_lt (b : Byte) : (bytePoly b).degree < 8 := by
  refine (degree_lt_iff_coeff_zero _ 8).2 fun i hi => ?_
  rw [bytePoly, coeff_bitPoly, if_neg (by omega)]

theorem reductionPoly_monic : reductionPoly.Monic := by
  unfold reductionPoly
  monicity!

theorem degree_reductionPoly : reductionPoly.degree = 8 := by
  unfold reductionPoly
  compute_degree!

/-- A byte's residue modulo the reduction polynomial. -/
noncomputable def byteResidue (b : Byte) : AdjoinRoot reductionPoly := AdjoinRoot.mk reductionPoly (bytePoly b)

theorem byteResidue_xor (a b : Byte) : byteResidue (a ^^^ b) = byteResidue a + byteResidue b := by
  rw [byteResidue, bytePoly_xor, map_add, byteResidue, byteResidue]

/-- Bytes have degree at most 7, so different bytes have different residues. -/
theorem byteResidue_injective : Function.Injective byteResidue := by
  intro a b h
  have hdvd : reductionPoly ∣ bytePoly (a ^^^ b) := by
    rw [bytePoly_xor, ← CharTwo.sub_eq_add]
    exact AdjoinRoot.mk_eq_mk.1 h
  have hlt : (bytePoly (a ^^^ b)).degree < reductionPoly.degree := degree_reductionPoly ▸ degree_bytePoly_lt _
  exact BitVec.xor_eq_zero_iff.1 (bytePoly_eq_zero (eq_zero_of_dvd_of_degree_lt hdvd hlt))

/-! ### XTIME and GFMUL on residues (40_gf_arithmetic.md R93) -/

/-- The bits shifted left are multiplied by x; the bit that is lost would stand for x^8. -/
theorem bytePoly_shiftLeft_one (a : Byte) :
    X * bytePoly a = bytePoly (a <<< 1) + if a.getLsbD 7 = true then X ^ 8 else 0 := by
  have hlow : bytePoly (a <<< 1) = X * bitPoly 7 a := by
    have hbits : bitPoly 7 (a <<< 1 >>> 1) = bitPoly 7 a := by
      refine Finset.sum_congr rfl fun i hi => ?_
      have hi7 : 1 + i < 8 := by have := Finset.mem_range.1 hi; omega
      simp only [BitVec.getLsbD_ushiftRight, BitVec.getLsbD_shiftLeft, hi7, Nat.add_sub_cancel_left, decide_true,
        Nat.not_lt.2 (Nat.le_add_right 1 i), decide_false, Bool.not_false, Bool.true_and]
    rw [bytePoly, bitPoly_succ, hbits]
    simp
  rw [hlow, bytePoly, bitPoly_succ_top, mul_add, mul_ite, mul_zero, ← pow_succ']

/-- The reduction constant 0x1B is the reduction polynomial without its x^8. -/
theorem bytePoly_reductionConstant : X ^ 8 + bytePoly 0x1B#8 = reductionPoly := by
  simp [bytePoly, bitPoly, reductionPoly, Finset.sum_range_succ]
  ring

/-- XTIME multiplies by x and takes the reduction polynomial off once, when the degree has reached 8. -/
theorem X_mul_bytePoly (a : Byte) :
    X * bytePoly a = bytePoly (xtime a) + if a.getLsbD 7 = true then reductionPoly else 0 := by
  rw [bytePoly_shiftLeft_one, xtime]
  by_cases h : a.getLsbD 7 = true
  · simp only [if_pos h, bytePoly_xor, ← bytePoly_reductionConstant]
    rw [add_comm (X ^ 8), add_assoc, CharTwo.add_cancel_left]
  · simp only [if_neg h]

theorem byteResidue_xtime (a : Byte) : byteResidue (xtime a) = AdjoinRoot.root reductionPoly * byteResidue a := by
  rw [byteResidue, byteResidue, ← AdjoinRoot.mk_X, ← map_mul, X_mul_bytePoly]
  by_cases h : a.getLsbD 7 = true
  · rw [if_pos h, map_add, AdjoinRoot.mk_self, add_zero]
  · rw [if_neg h, add_zero]

/-- After `n` iterations the accumulator has taken up the product with the low `n` bits. -/
theorem byteResidue_gfmulLoop (n : Nat) (acc a b : Byte) :
    byteResidue (gfmulLoop n acc a b) =
      byteResidue acc + byteResidue a * AdjoinRoot.mk reductionPoly (bitPoly n b) := by
  induction n generalizing acc a b with
  | zero => simp [gfmulLoop, bitPoly]
  | succ n ih =>
    rw [gfmulLoop, ih, byteResidue_xtime, bitPoly_succ, map_add, map_mul, AdjoinRoot.mk_X]
    by_cases h : b.getLsbD 0 = true
    · simp only [if_pos h, byteResidue_xor, map_one]
      ring
    · simp only [if_neg h, map_zero]
      ring

theorem byteResidue_zero : byteResidue 0x00 = 0 := by
  rw [byteResidue, bytePoly_zero, map_zero]

theorem byteResidue_gfmul (a b : Byte) : byteResidue (gfmul a b) = byteResidue a * byteResidue b := by
  have h := byteResidue_gfmulLoop 8 0x00 a b
  rw [byteResidue_zero, zero_add] at h
  exact h

/-- Settles O6: product and GFMUL have the same residue. -/
theorem gfmulIsPolynomialProduct : Obligations.GfmulIsPolynomialProduct := by
  intro a b
  have h : AdjoinRoot.mk reductionPoly (bytePoly a * bytePoly b) = AdjoinRoot.mk reductionPoly (bytePoly (gfmul a b)) := by
    rw [map_mul]
    exact (byteResidue_gfmul a b).symm
  exact AdjoinRoot.mk_eq_mk.1 h

/-! ### The laws of GFMUL (40_gf_arithmetic.md R94) -/

theorem gfmul_comm (a b : Byte) : gfmul a b = gfmul b a :=
  byteResidue_injective (by rw [byteResidue_gfmul, byteResidue_gfmul, mul_comm])

theorem gfmul_assoc (a b c : Byte) : gfmul a (gfmul b c) = gfmul (gfmul a b) c :=
  byteResidue_injective (by simp only [byteResidue_gfmul, mul_assoc])

theorem gfmul_zero (a : Byte) : gfmul a 0x00 = 0x00 :=
  byteResidue_injective (by rw [byteResidue_gfmul, byteResidue_zero, mul_zero])

theorem byteResidue_one : byteResidue 0x01 = 1 := by
  simp [byteResidue, bytePoly, bitPoly]

theorem gfmul_one (a : Byte) : gfmul a 0x01 = a :=
  byteResidue_injective (by rw [byteResidue_gfmul, byteResidue_one, mul_one])

/-- The powers of a byte in the field. -/
def gfPow (a : Byte) : Nat → Byte
  | 0 => 0x01
  | n + 1 => gfmul a (gfPow a n)

theorem byteResidue_gfPow (a : Byte) (n : Nat) : byteResidue (gfPow a n) = byteResidue a ^ n := by
  induction n with
  | zero => rw [gfPow, byteResidue_one, pow_zero]
  | succ n ih => rw [gfPow, byteResidue_gfmul, ih, pow_succ']

/-- The square of a byte in the field. -/
def gfSquare (a : Byte) : Byte := gfmul a a

theorem byteResidue_gfSquare_iterate (n : Nat) (a : Byte) : byteResidue (gfSquare^[n] a) = byteResidue a ^ 2 ^ n := by
  induction n with
  | zero => rw [Function.iterate_zero_apply, pow_zero, pow_one]
  | succ n ih => rw [Function.iterate_succ_apply', gfSquare, byteResidue_gfmul, ih, ← pow_two, ← pow_mul, ← pow_succ]

theorem byteResidue_two : byteResidue 0x02 = AdjoinRoot.root reductionPoly := by
  simp [byteResidue, bytePoly, bitPoly, Finset.sum_range_succ]

/-- Eight squarings take x back to itself. -/
theorem root_pow_256 : AdjoinRoot.root reductionPoly ^ 2 ^ 8 = AdjoinRoot.root reductionPoly := by
  have hsquares : gfSquare^[8] 0x02 = 0x02 := by decide +kernel
  rw [← byteResidue_two, ← byteResidue_gfSquare_iterate, hsquares]

/-- Squaring is linear over the two-element field, so what holds of x holds of every residue. -/
theorem residue_pow_256 (z : AdjoinRoot reductionPoly) : z ^ 2 ^ 8 = z := by
  have hpow (y : AdjoinRoot reductionPoly) :
      (FiniteField.frobeniusAlgHom (ZMod 2) (AdjoinRoot reductionPoly) ^ 8) y = y ^ 2 ^ 8 := by
    rw [AlgHom.coe_pow, FiniteField.coe_frobeniusAlgHom, pow_iterate, ZMod.card]
  have hid : FiniteField.frobeniusAlgHom (ZMod 2) (AdjoinRoot reductionPoly) ^ 8 = 1 :=
    AdjoinRoot.algHom_ext (by rw [hpow, root_pow_256, AlgHom.one_apply])
  rw [← hpow, hid, AlgHom.one_apply]

/-- Zero and one are the only idempotents among the 256 bytes. -/
theorem eq_zero_or_eq_one_of_gfmul_self : ∀ e : Byte, gfmul e e = e → e = 0x00 ∨ e = 0x01 := by
  decide +kernel

/-- A power that leaves a nonzero byte as it is, when multiplied with it, is idempotent and not zero. -/
theorem gfPow_eq_one {a : Byte} {n : Nat} (ha : a ≠ 0x00) (hfix : byteResidue a ^ (n + 2) = byteResidue a) :
    gfPow a (n + 1) = 0x01 := by
  have hidem : gfmul (gfPow a (n + 1)) (gfPow a (n + 1)) = gfPow a (n + 1) := by
    refine byteResidue_injective ?_
    rw [byteResidue_gfmul, byteResidue_gfPow]
    calc byteResidue a ^ (n + 1) * byteResidue a ^ (n + 1)
        = byteResidue a ^ n * byteResidue a ^ (n + 2) := by ring
      _ = byteResidue a ^ (n + 1) := by rw [hfix, ← pow_succ]
  rcases eq_zero_or_eq_one_of_gfmul_self _ hidem with h0 | h1
  · refine absurd (byteResidue_injective ?_) ha
    rw [← hfix, pow_succ', ← byteResidue_gfPow, h0, byteResidue_zero, mul_zero]
  · exact h1

/-- The inverse is the 254th power. -/
theorem exists_gfmul_eq_one {a : Byte} (ha : a ≠ 0x00) : ∃ y : Byte, gfmul a y = 0x01 :=
  ⟨gfPow a 254, gfPow_eq_one (n := 254) ha (residue_pow_256 _)⟩

/-- The product with a nonzero byte is undone by the product with its inverse. -/
theorem gfmul_bijective {a : Byte} (ha : a ≠ 0x00) : Function.Bijective (gfmul a) := by
  obtain ⟨y, hinv⟩ := exists_gfmul_eq_one ha
  refine Function.bijective_iff_has_inverse.2 ⟨gfmul y, fun b => ?_, fun b => ?_⟩
  · rw [gfmul_assoc, gfmul_comm y, hinv, gfmul_comm, gfmul_one]
  · rw [gfmul_assoc, hinv, gfmul_comm, gfmul_one]

theorem eq_zero_or_eq_zero_of_gfmul_eq_zero {a b : Byte} (h : gfmul a b = 0x00) : a = 0x00 ∨ b = 0x00 := by
  by_cases ha : a = 0x00
  · exact .inl ha
  · exact .inr ((gfmul_bijective ha).injective (h.trans (gfmul_zero a).symm))

/-- Settles O7: laws of the residues, but for the inverse, which is a power of the byte. -/
theorem gfmulFieldLaws : Obligations.GfmulFieldLaws :=
  ⟨gfmul_comm, gfmul_assoc, gfmul_xor_right, fun a => ⟨gfmul_one a, gfmul_zero a⟩,
    fun _ _ => eq_zero_or_eq_zero_of_gfmul_eq_zero, fun _ ha => (gfmul_bijective ha).existsUnique 0x01,
    by decide, by decide, by decide⟩

/-! ### XTIME (40_gf_arithmetic.md R91) -/

theorem shiftLeft_one_eq_ofNat (a : Byte) : a <<< 1 = BitVec.ofNat 8 (2 * a.toNat) := by
  apply BitVec.eq_of_toNat_eq
  rw [BitVec.toNat_shiftLeft, BitVec.toNat_ofNat, Nat.shiftLeft_eq, Nat.mul_comm]

theorem getLsbD_seven_iff (a : Byte) : a.getLsbD 7 = true ↔ 128 ≤ a.toNat := by
  rw [← BitVec.msb_eq_getLsbD_last, BitVec.msb_eq_decide, decide_eq_true_iff]

theorem xtime_eq_shift_xor (a : Byte) :
    xtime a = BitVec.ofNat 8 (2 * a.toNat) ^^^ (if 128 ≤ a.toNat then 0x1B#8 else 0x00#8) := by
  simp only [xtime, getLsbD_seven_iff, shiftLeft_one_eq_ofNat]
  by_cases h : 128 ≤ a.toNat
  · simp only [if_pos h]
  · simp only [if_neg h, BitVec.xor_zero]

/-- XTIME is the product with x, the byte 0x02. -/
theorem xtime_eq_gfmul : xtime = gfmul 0x02 := by
  funext a
  rw [gfmul_comm]
  simp [gfmul, gfmulLoop]

/-- Settles O5: the pseudocode bit by bit; a product with a nonzero byte is a bijection. -/
theorem xtimeIsShiftAndReduce : Obligations.XtimeIsShiftAndReduce :=
  ⟨xtime_eq_shift_xor, decode_encode (i := .xtime) rfl, xtime_eq_gfmul ▸ gfmul_bijective (by decide)⟩

/-! ### What the byte functions write (40_gf_arithmetic.md R97) -/

/-- The table of round constants holds the powers of x (R96). -/
theorem rcon_eq_xtime_iterate : ∀ r : Round, 1 ≤ r.val → rcon r.val = xtime^[r.val - 1] 0x01 := by
  decide

theorem exec_rcon {r : BitVec 4} (h1 : 1 ≤ r.toNat) (h10 : r.toNat ≤ 10) (s : State) :
    exec (.rcon r) s = .next { s with result := .byte (rcon r.toNat) } :=
  (withRoundIndex_eq_next _ _ _ _).2 ⟨⟨r.toNat, by omega⟩, h1, rfl, rfl⟩

/-- Settles O9: each writes the result port alone; a round constant is a power of x. -/
theorem byteFunctionsReturnTheirValue : Obligations.ByteFunctionsReturnTheirValue := by
  refine ⟨fun s => rfl, fun s => rfl, fun s => rfl, fun s => rfl, fun s r h1 h10 => ?_⟩
  rw [exec_rcon h1 h10, rcon_eq_xtime_iterate ⟨r.toNat, by omega⟩ h1]

end Sys2Proof.Machine
end

section
/-! PROOFS of the family 41_substitution_tables.md: the two tables undo each other, the forward table is the derivation of
R103, and what no byte is mapped to (R107). What the literal tables hold is checked entry by entry; the rest follows
from that and from the laws of GFMUL. -/

namespace Sys2Proof.Machine

@[simp] theorem invSbox_sbox : ∀ x : Byte, invSbox (sbox x) = x := by
  decide +kernel

theorem sbox_bijective : Function.Bijective sbox :=
  Finite.injective_iff_bijective.1 (Function.LeftInverse.injective invSbox_sbox)

@[simp] theorem sbox_invSbox : ∀ y : Byte, sbox (invSbox y) = y :=
  Function.LeftInverse.rightInverse_of_surjective invSbox_sbox sbox_bijective.surjective

theorem invSbox_bijective : Function.Bijective invSbox :=
  Function.bijective_iff_has_inverse.2 ⟨sbox, sbox_invSbox, invSbox_sbox⟩

/-- What the derivation of R103 gives for the inverse `y`, looked up backwards, is the byte `y` is the inverse of. -/
theorem gfmul_invSbox_affine : ∀ y : Byte, y ≠ 0x00 → gfmul y (invSbox (affine y)) = 0x01 := by
  decide +kernel

/-- Only one byte has the product 0x01 with `y`, so that byte is the `x` of the derivation. -/
theorem sbox_eq_affine_of_gfmul_eq_one {x y : Byte} (h : gfmul x y = 0x01) : sbox x = affine y := by
  have hy : y ≠ 0x00 := by
    rintro rfl
    exact absurd ((gfmul_zero x).symm.trans h) (by decide)
  have hx : x = invSbox (affine y) :=
    (gfmul_bijective hy).injective ((gfmul_comm y x).trans (h.trans (gfmul_invSbox_affine y hy).symm))
  rw [hx, sbox_invSbox]

/-- The byte 0x00, which has no inverse, counts as its own. -/
theorem sbox_zero_eq_affine_zero : sbox 0x00 = affine 0x00 := by
  decide

theorem sbox_ne_self_and_ne_complement : ∀ x : Byte, sbox x ≠ x ∧ sbox x ≠ x ^^^ 0xFF := by
  decide +kernel

/-- A fixed point of INVSBOX would be one of SBOX. -/
theorem invSbox_ne_self (x : Byte) : invSbox x ≠ x := by
  intro h
  have hfix : sbox x = x := by
    rw [← h, sbox_invSbox, h]
  exact (sbox_ne_self_and_ne_complement x).1 hfix

/-- Settles O8: the tables are mutually inverse, and an entry is derived by the uniqueness of the inverse in the field. -/
theorem substitutionTableLaws : Obligations.SubstitutionTableLaws := by
  refine ⟨sbox_bijective, invSbox_bijective, fun x => ⟨invSbox_sbox x, sbox_invSbox x⟩, fun x y hinv hzero => ?_, fun x => ?_⟩
  · by_cases hx : x = 0x00
    · rw [hx, hzero hx, sbox_zero_eq_affine_zero]
    · exact sbox_eq_affine_of_gfmul_eq_one (hinv hx)
  · obtain ⟨hfix, hcompl⟩ := sbox_ne_self_and_ne_complement x
    exact ⟨hfix, hcompl, invSbox_ne_self x⟩

end Sys2Proof.Machine
end

section
/-! PROOFS of the family 42_key_schedule.md: ROTWORD and SUBWORD (R111, R112), KSROUND word by word (R114) and undone (R120),
EXPAND (R115, R116, R118), and the key-schedule machine of R119 run step by step. -/

namespace Sys2Proof.Machine

/-! ### Words (42_key_schedule.md R111, R112) -/

/-- A word is its four bytes. -/
theorem word_eq_bytes (w : Word) : w = #v[w[0], w[1], w[2], w[3]] := by
  apply Vector.ext
  intro i hi
  match i with
  | 0 => rfl
  | 1 => rfl
  | 2 => rfl
  | 3 => rfl

theorem subWord_eq (w : Word) : subWord w = #v[sbox w[0], sbox w[1], sbox w[2], sbox w[3]] := by
  rw [word_eq_bytes (subWord w)]
  simp only [subWord, Vector.getElem_map]

theorem rotWord_iterate_four (w : Word) : rotWord (rotWord (rotWord (rotWord w))) = w :=
  (word_eq_bytes w).symm

theorem rotWord_replicate (b : Byte) : rotWord (Vector.replicate 4 b) = Vector.replicate 4 b := rfl

theorem subWord_replicate (b : Byte) : subWord (Vector.replicate 4 b) = Vector.replicate 4 (sbox b) :=
  Vector.map_replicate

theorem subWord_rotWord (w : Word) : subWord (rotWord w) = rotWord (subWord w) := by
  simp [subWord, rotWord]

/-- Settles O10: the two operations write T alone, and the corner cases are laws of the two functions on words. -/
theorem wordOperationsActOnT : Obligations.WordOperationsActOnT := by
  refine ⟨fun s => rfl, fun s => ?_, rotWord_iterate_four, rotWord_replicate, subWord_rotWord,
    subWord_replicate 0x00, subWord_replicate 0xFF, decode_encode (i := .rotword) rfl, decode_encode (i := .subword) rfl⟩
  rw [← subWord_eq]
  rfl

/-! ### KSROUND word by word (42_key_schedule.md R114) -/

/-- The transformed word byte by byte: the round constant goes into byte 0 only. -/
theorem transformWord_eq (r : Nat) (v : Word) :
    transformWord r v = #v[sbox v[1] ^^^ rcon r, sbox v[2], sbox v[3], sbox v[0]] := by
  simp only [transformWord, subWord_eq]
  rfl

/-- Word 0 of the new round key is XORed with the transformed word. -/
theorem column_ksRound_zero (r : Nat) (p : Block) :
    column (ksRound r p) 0 = xorWord (column p 0) (transformWord r (column p 3)) := by
  simp only [ksRound, column_ofColumns]

/-- Each later word is XORed with the word of the new round key before it. -/
theorem column_ksRound_succ (r : Nat) (p : Block) (g : Fin 3) :
    column (ksRound r p) g.succ = xorWord (column p g.succ) (column (ksRound r p) g.castSucc) := by
  simp only [ksRound, column_ofColumns]
  match g with
  | 0 => rfl
  | 1 => rfl
  | 2 => rfl

theorem exec_ksround_roundField {r : Round} (hr : 1 ≤ r.val) (s : State) :
    exec (.ksround (roundField r)) s = .next (ksRoundOp r s) :=
  withRoundIndex_roundField 1 r hr _

/-- The literal constants of R113. -/
theorem rcon_eq_getD : ∀ r : Round, 1 ≤ r.val →
    rcon r.val = ([0x01, 0x02, 0x04, 0x08, 0x10, 0x20, 0x40, 0x80, 0x1B, 0x36] : List Byte).getD (r.val - 1) 0x00 := by
  decide

theorem keyRoundSteps_eq : ∀ r : Round, 1 ≤ r.val →
    keyRoundSteps r = [.setRound r, .loadT r, .issue 0x300, .issue 0x310, .issue (0x320#12 + BitVec.ofNat 12 r.val),
      .issue (0x330#12 + BitVec.ofNat 12 r.val)] := by
  decide

/-- The code of KSROUND r as a sum, which is the row joined with the round index. -/
theorem decodeUop_ksround_add : ∀ r : Round, 1 ≤ r.val →
    decodeUop (0x330#12 + BitVec.ofNat 12 r.val) = .ok (.ksround (roundField r)) := by
  decide

/-- Settles O11: KSROUND writes T and RK[r]; the bytes of the new round key are those of its columns. -/
theorem keyRoundWritesRoundKey : Obligations.KeyRoundWritesRoundKey := by
  intro s r hr
  refine ⟨decodeUop_ksround_add r hr, transformWord r.val (column s.rk[r.val - 1] 3), ksRound r.val s.rk[r.val - 1],
    exec_ksround_roundField hr s, ?_, fun i => ?_, fun g i => ?_⟩
  · rw [transformWord_eq, rcon_eq_getD r hr]
    simp only [column_getElem]
    rfl
  · have h := congrArg (fun w : Word => w[i.val]) (column_ksRound_zero r.val s.rk[r.val - 1])
    simpa using h
  · have h := congrArg (fun w : Word => w[i.val]) (column_ksRound_succ r.val s.rk[r.val - 1] g)
    simpa [Nat.add_comm] using h

/-! ### The steps undone (42_key_schedule.md R120) -/

/-- A later word of the old round key is the XOR of two words of the new one. -/
theorem column_succ_of_ksRound (r : Nat) (p : Block) (g : Fin 3) :
    column p g.succ = xorWord (column (ksRound r p) g.succ) (column (ksRound r p) g.castSucc) := by
  rw [column_ksRound_succ, xorWord_cancel_right]

/-- Word 0 of the old round key, whose word 3 gives the transformed word. -/
theorem column_zero_of_ksRound (r : Nat) (p : Block) :
    column p 0 = xorWord (column (ksRound r p) 0)
      (transformWord r (xorWord (column (ksRound r p) 3) (column (ksRound r p) 2))) := by
  have h3 : column p 3 = xorWord (column (ksRound r p) 3) (column (ksRound r p) 2) := column_succ_of_ksRound r p 2
  rw [← h3, column_ksRound_zero, xorWord_cancel_right]

theorem ksRound_injective (r : Nat) : Function.Injective (ksRound r) := by
  intro p q h
  apply block_ext_columns
  intro c
  cases c using Fin.cases with
  | zero => rw [column_zero_of_ksRound r p, column_zero_of_ksRound r q, h]
  | succ g => rw [column_succ_of_ksRound r p, column_succ_of_ksRound r q, h]

theorem roundKey_injective (r : Nat) : Function.Injective fun key => roundKey key r := by
  induction r with
  | zero => exact fun k k' h => h
  | succ r ih => exact fun k k' h => ih (ksRound_injective (r + 1) h)

/-- Settles O14: the words are recovered one by one, so KSROUND is injective, and so is each round key in the key. -/
theorem scheduleStepsCanBeUndone : Obligations.ScheduleStepsCanBeUndone := by
  have determines (k k' : Block) (r : Round) (h : (schedule k)[r.val] = (schedule k')[r.val]) : k = k' :=
    roundKey_injective r.val (by simpa only [schedule_getElem] using h)
  exact ⟨fun r p => ⟨column_succ_of_ksRound r p 2, column_succ_of_ksRound r p 1, column_succ_of_ksRound r p 0,
    column_zero_of_ksRound r p⟩, determines, fun k k' h => determines k k' 0 (by rw [h])⟩

/-! ### The 44 words (42_key_schedule.md R116) -/

/-- R116's w: word `j` of the schedule, word `j mod 4` of round key `j div 4`. -/
def scheduleWord (key : Block) (j : Nat) : Word :=
  column ((schedule key)[j / 4]?.getD key) ⟨j % 4, Nat.mod_lt _ (by decide)⟩

/-- The index of word `c` of round key `r` is `4 * r + c`. -/
theorem scheduleWord_eq_column (key : Block) (c : Fin 4) {r : Nat} (hr : r < 11) :
    scheduleWord key (4 * r + c.val) = column (roundKey key r) c := by
  have hdiv : (4 * r + c.val) / 4 = r := by omega
  have hmod : (4 * r + c.val) % 4 = c.val := by omega
  simp only [scheduleWord, hdiv, hmod, Vector.getElem?_eq_getElem hr, Option.getD_some, schedule_getElem]

/-- R116's G is the transformed word. -/
theorem transformWord_eq_xor_rcon (r : Nat) (v : Word) :
    transformWord r v = #v[(subWord (rotWord v))[0] ^^^ rcon r, (subWord (rotWord v))[1], (subWord (rotWord v))[2],
      (subWord (rotWord v))[3]] := by
  rw [transformWord_eq, subWord_eq]
  rfl

theorem scheduleWord_first (key : Block) {r : Nat} (hr : r + 1 < 11) :
    scheduleWord key (4 * (r + 1)) =
      xorWord (scheduleWord key (4 * r)) (transformWord (r + 1) (scheduleWord key (4 * r + 3))) := by
  have hnew := scheduleWord_eq_column key 0 hr
  have hold := scheduleWord_eq_column key 0 (Nat.lt_of_succ_lt hr)
  have hlast := scheduleWord_eq_column key 3 (Nat.lt_of_succ_lt hr)
  simp only [Fin.val_zero, Nat.add_zero] at hnew hold
  rw [hnew, hold, show 4 * r + 3 = 4 * r + (3 : Fin 4).val from rfl, hlast, roundKey_succ, column_ksRound_zero]

theorem scheduleWord_later (key : Block) (g : Fin 3) {r : Nat} (hr : r + 1 < 11) :
    scheduleWord key (4 * (r + 1) + (g.val + 1)) =
      xorWord (scheduleWord key (4 * r + (g.val + 1))) (scheduleWord key (4 * (r + 1) + g.val)) := by
  have hnew := scheduleWord_eq_column key g.succ hr
  have hold := scheduleWord_eq_column key g.succ (Nat.lt_of_succ_lt hr)
  have hprev := scheduleWord_eq_column key g.castSucc hr
  rw [Fin.val_succ] at hnew hold
  rw [Fin.val_castSucc] at hprev
  rw [hnew, hold, hprev, roundKey_succ, column_ksRound_succ]

/-- Settles O13: a word whose index 4 divides is the first of a round key, another a later one. -/
theorem flatWordRecurrence : Obligations.FlatWordRecurrence := by
  intro key w g
  have hw : w = scheduleWord key := rfl
  have hg (v : Word) (r : Nat) : g v r = transformWord r v := (transformWord_eq_xor_rcon r v).symm
  rw [hw]
  refine ⟨fun j hj => ?_, fun j h4 h43 => ?_⟩
  · have h := scheduleWord_eq_column key ⟨j, hj⟩ (r := 0) (by decide)
    simpa [roundKey_zero, Nat.mod_eq_of_lt hj] using h
  · obtain ⟨r, hr⟩ : ∃ r, j / 4 = r + 1 := ⟨j / 4 - 1, by omega⟩
    by_cases hmod : j % 4 = 0
    · obtain rfl : j = 4 * (r + 1) := by omega
      rw [if_pos hmod, hg, hr]
      exact scheduleWord_first key (by omega)
    · obtain ⟨c, rfl⟩ : ∃ c : Fin 3, j = 4 * (r + 1) + (c.val + 1) := ⟨⟨j % 4 - 1, by omega⟩, by simp only; omega⟩
      rw [if_neg hmod, show 4 * (r + 1) + (c.val + 1) - 4 = 4 * r + (c.val + 1) by omega]
      exact scheduleWord_later key c (by omega)

/-! ### EXPAND (42_key_schedule.md R115, R118) -/

theorem exec_expand_of_key {s : State} {key : Block} (h : s.keyIn = some key.toList) :
    exec .expand s = .next (expandOp key s) :=
  congrArg Host.Outcome.next (onKeyIn_of_key expandOp s key h)

theorem exec_expand_of_length {s : State} {k : List Byte} (h : s.keyIn = some k) (hk : k.length ≠ 16) :
    exec .expand s = .next (raise .invalidKeySize s) :=
  congrArg Host.Outcome.next (onKeyIn_of_length expandOp s k h hk)

theorem expandOp_rk (key : Block) (s : State) : (expandOp key s).rk = schedule key := by
  obtain ⟨t, rd, n, h⟩ := expandOp_eq key s
  rw [h]

/-- Settles O12: RK is the schedule, whose round keys obey the recursion; an error keeps RK. -/
theorem expandWritesTheSchedule : Obligations.ExpandWritesTheSchedule := by
  refine ⟨fun s key h => ?_, fun s k h hk => ⟨_, exec_expand_of_length h hk, rfl, rfl⟩, decode_encode (i := .expand) rfl⟩
  obtain ⟨t, rd, n, hop⟩ := expandOp_eq key s
  refine ⟨schedule key, t, rd, n, by rw [exec_expand_of_key h, hop], ?_, fun r => ?_⟩
  · rw [schedule_getElem, roundKey_zero]
  · rw [schedule_getElem, schedule_getElem, roundKey_succ]

/-- Settles O15: from either state RK becomes the schedule of the key. -/
theorem expandIsDeterministic : Obligations.ExpandIsDeterministic := by
  intro s s' t t' k hs hs' hk ht ht'
  have rk_eq (s t : State) (h : s.keyIn = some k) (ht : exec .expand s = .next t) : t.rk = schedule (toBlock k) := by
    rw [exec_expand_of_key (h.trans (by rw [toList_toBlock k hk]))] at ht
    cases ht
    exact expandOp_rk _ s
  rw [rk_eq s t hs ht, rk_eq s' t' hs' ht']

/-! ### The key-schedule machine (42_key_schedule.md R119) -/

/-- The machine over the rounds `rs`: what `expandStep` does of each in turn, and a result. -/
theorem run_keyRounds (s : State) (rs : List Round) (hrs : ∀ r ∈ rs, 1 ≤ r.val) :
    ∀ (rest : List SeqStep) (n : Nat), s.seq = rs.flatMap keyRoundSteps ++ rest →
      ∃ x, Host.Core.run core (n + 6 * rs.length) s =
        Host.Core.run core n { rs.foldl expandStep s with result := x, seq := rest } := by
  induction rs using List.reverseRecOn with
  | nil =>
    intro rest n h
    exact ⟨s.result, by rw [← show s.seq = rest from h]; rfl⟩
  | append_singleton rs r ih =>
    intro rest n h
    obtain ⟨x, hx⟩ := ih (fun r hr => hrs r (List.mem_append_left _ hr)) (keyRoundSteps r ++ rest) (n + 6)
      (by simpa using h)
    refine ⟨.byte (rcon r.val), ?_⟩
    rw [List.length_append, List.length_singleton, show n + 6 * (rs.length + 1) = n + 6 + 6 * rs.length by omega, hx,
      run_keyRound r (hrs r (by simp)) rest _ n rfl, List.foldl_append]
    rfl

/-- RK is the schedule when its first ten round keys are and KSROUND has given the last. -/
theorem set_ksRound_eq_schedule {key : Block} {rk : Schedule}
    (h : ∀ (i : Nat) (_ : i < 11), i ≤ 9 → rk[i] = (schedule key)[i]) :
    rk.set 10 (ksRound 10 (schedule key)[9]) = schedule key := by
  apply Vector.ext
  intro i hi
  by_cases hi10 : i = 10
  · subst hi10
    rw [Vector.getElem_set_self, schedule_getElem, schedule_getElem]
    exact (roundKey_succ key 9).symm
  · rw [Vector.getElem_set_ne _ _ (Ne.symm hi10), h i hi (by omega)]

/-- The ten rounds of the machine: the first nine give the round keys before the last, and round 10 then leaves T and the
result, whatever T and the later round keys held before. -/
theorem run_expandRounds {s : State} {rest : List SeqStep} (n : Nat)
    (hseq : s.seq = expandRounds.flatMap keyRoundSteps ++ rest) :
    Host.Core.run core (n + 60) s = Host.Core.run core n { s with
      rk := schedule s.rk[0], regT := transformWord 10 (column (schedule s.rk[0])[9] 3), result := .byte (rcon 10)
      round := 10, seq := rest } := by
  obtain ⟨x, hnine⟩ := run_keyRounds s innerRounds (by decide) (keyRoundSteps 10 ++ rest) (n + 6) hseq
  obtain ⟨rk, t, rd, hfold, hrk⟩ := foldl_expandStep s.rk[0] innerRounds s 0 rfl (by decide) (by
    intro i h11 hi
    obtain rfl : i = 0 := by omega
    rfl)
  have hsched (i : Nat) (h11 : i < 11) (hi : i ≤ 9) : rk[i] = (schedule s.rk[0])[i] :=
    (hrk i h11 hi).trans (schedule_getElem _ i h11).symm
  have h9 : rk[(10 : Round).val - 1] = (schedule s.rk[0])[9] := hsched 9 (by decide) (by decide)
  have h10 : rk.set (10 : Round).val (ksRound (10 : Round).val (schedule s.rk[0])[9]) = schedule s.rk[0] :=
    set_ksRound_eq_schedule hsched
  have hlast := run_keyRound 10 (by decide) rest
    { s with rk := rk, regT := t, round := rd, result := x, seq := keyRoundSteps 10 ++ rest } n rfl
  rw [ksRoundOp_rk, ksRoundOp_regT, h9, h10] at hlast
  rw [hfold] at hnine
  exact hnine.trans hlast

/-- The rotated last word of a block. -/
theorem rotWord_column_three (p : Block) : rotWord (column p 3) = #v[p[13], p[14], p[15], p[12]] := by
  simp [rotWord]

/-- The whole machine: step 0 copies the key, the rounds follow, and ROUND holds no value again. -/
theorem run_expandSteps {s : State} {key : Block} (h : s.keyIn = some key.toList) :
    Host.Core.run core 63 { s with seq := expandSteps } = .next { s with
      rk := schedule key, regT := transformWord 10 (column (schedule key)[9] 3), result := .byte (rcon 10)
      round := Config.freeRound s.free, free := s.free + 1, seq := [] } := by
  have hkey (rest : List SeqStep) : sequencerStep .copyKey { s with round := 0, seq := rest } =
      .next (copyKey key { s with round := 0, seq := rest }) :=
    congrArg Host.Outcome.next (onKeyIn_of_key copyKey _ key h)
  have hrk0 : (s.rk.set 0 key)[0] = key := Vector.getElem_set_self _
  rw [run_sequencer (.setRound 0) _ _ _ 62 rfl rfl, run_sequencer .copyKey _ _ _ 61 rfl (hkey _),
    run_expandRounds (rest := [.dropRound]) 1 rfl, run_sequencer .dropRound [] _ _ 0 rfl rfl]
  simp only [copyKey, hrk0]
  rfl

/-- Settles O16: the run of the whole machine; the codes of a round; and ROTWORD after a load of T. -/
theorem issuedKeyStagesExpand : Obligations.IssuedKeyStagesExpand := by
  refine ⟨fun s key h => ⟨_, _, run_expandSteps h⟩, keyRoundSteps_eq, fun s r rest h => ?_⟩
  intro p
  rw [← rotWord_column_three, run_sequencer (.loadT r) _ s _ 1 h rfl, run_issued 0x300 .rotword rest _ _ 0 rfl rfl rfl]
  rfl

end Sys2Proof.Machine
end

section
/-! PROOFS of the family 43_block_transform.md: what each stage gives byte by byte (R126 to R129, R133) or column by column
(R131, R132), and from these the inverse pairs (R134) and the commuting stages (R135). -/

namespace Sys2Proof.Machine

/-! ### SUBBYTES and INVSUBBYTES (43_block_transform.md R126, R127) -/

@[simp] theorem subBytes_getElem (b : Block) (i : Nat) (h : i < 16) : (subBytes b)[i] = sbox b[i] :=
  Vector.getElem_map sbox h

@[simp] theorem invSubBytes_getElem (b : Block) (i : Nat) (h : i < 16) : (invSubBytes b)[i] = invSbox b[i] :=
  Vector.getElem_map invSbox h

theorem subBytes_replicate (v : Byte) : subBytes (Vector.replicate 16 v) = Vector.replicate 16 (sbox v) :=
  Vector.map_replicate

theorem invSubBytes_replicate (v : Byte) : invSubBytes (Vector.replicate 16 v) = Vector.replicate 16 (invSbox v) :=
  Vector.map_replicate

/-- A fixed block would have a fixed byte. -/
theorem subBytes_ne_self (b : Block) : subBytes b ≠ b := by
  intro h
  have hfix : sbox b[0] = b[0] := by
    rw [← subBytes_getElem, h]
  exact (sbox_ne_self_and_ne_complement b[0]).1 hfix

theorem invSubBytes_subBytes (b : Block) : invSubBytes (subBytes b) = b := by
  ext1 i hi
  rw [invSubBytes_getElem, subBytes_getElem, invSbox_sbox]

theorem subBytes_invSubBytes (b : Block) : subBytes (invSubBytes b) = b := by
  ext1 i hi
  rw [subBytes_getElem, invSubBytes_getElem, sbox_invSbox]

/-- Settles O17: the new block is the table applied byte by byte. -/
theorem byteSubstitutionStages : Obligations.ByteSubstitutionStages := by
  refine ⟨fun s => ⟨subBytes s.regS, rfl, fun i => subBytes_getElem s.regS i i.isLt, subBytes_ne_self s.regS⟩,
    fun s => ⟨invSubBytes s.regS, rfl, fun i => invSubBytes_getElem s.regS i i.isLt⟩, ?_,
    decode_encode (i := .subbytes) rfl, decode_encode (i := .invsubbytes) rfl⟩
  exact ⟨subBytes_replicate 0x00, subBytes_replicate 0xFF, invSubBytes_replicate 0x63, invSubBytes_replicate 0x00⟩

/-! ### SHIFTROWS and INVSHIFTROWS (43_block_transform.md R128, R129) -/

/-- A block is its bytes by row and column. -/
theorem block_ext_bytes {a b : Block} (h : ∀ r c : Fin 4, a[r.val + 4 * c.val] = b[r.val + 4 * c.val]) : a = b := by
  apply block_ext_columns
  intro c
  ext1 r hr
  rw [column_getElem, column_getElem]
  exact h ⟨r, hr⟩ c

theorem shiftRows_getElem (b : Block) (r c : Fin 4) :
    (shiftRows b)[r.val + 4 * c.val] = b[r.val + 4 * (c + r).val] := by
  have hrow : (r.val + 4 * c.val) % 4 = r.val := by omega
  have hcol : (r.val + 4 * c.val) / 4 = c.val := by omega
  simp only [shiftRows, Vector.getElem_ofFn, hrow, hcol, Fin.val_add]

/-- The subtraction of two columns wraps around, as R129's `(c - r) mod 4` does. -/
theorem invShiftRows_getElem (b : Block) (r c : Fin 4) :
    (invShiftRows b)[r.val + 4 * c.val] = b[r.val + 4 * (c - r).val] := by
  have hrow : (r.val + 4 * c.val) % 4 = r.val := by omega
  have hcol : (r.val + 4 * c.val) / 4 = c.val := by omega
  have hsub : (c - r).val = (c.val + 4 - r.val) % 4 := by
    rw [Fin.val_sub]
    omega
  simp only [invShiftRows, Vector.getElem_ofFn, hrow, hcol, hsub]

theorem invShiftRows_shiftRows (b : Block) : invShiftRows (shiftRows b) = b := by
  apply block_ext_bytes
  intro r c
  simp only [invShiftRows_getElem, shiftRows_getElem, sub_add_cancel]

theorem shiftRows_invShiftRows (b : Block) : shiftRows (invShiftRows b) = b := by
  apply block_ext_bytes
  intro r c
  simp only [invShiftRows_getElem, shiftRows_getElem, add_sub_cancel_right]

theorem shiftRows_iterate_four (b : Block) : shiftRows^[4] b = b := by
  apply block_ext_bytes
  intro r c
  have hround : c + r + r + r + r = c := by
    revert r c
    decide
  simp only [Function.iterate_succ_apply', Function.iterate_zero_apply, shiftRows_getElem, hround]

theorem invShiftRows_iterate_four (b : Block) : invShiftRows^[4] b = b := by
  have h := Function.LeftInverse.iterate invShiftRows_shiftRows 4 b
  rwa [shiftRows_iterate_four] at h

/-- Rotating a row of equal bytes moves nothing. -/
theorem shiftRows_of_equal_columns {b : Block} (h : ∀ c : Fin 4, column b c = column b 0) : shiftRows b = b := by
  apply block_ext_bytes
  intro r c
  have hcol : column b (c + r) = column b c := (h (c + r)).trans (h c).symm
  rw [shiftRows_getElem, ← column_getElem b (c + r) r r.isLt, hcol, column_getElem]

theorem invShiftRows_of_equal_columns {b : Block} (h : ∀ c : Fin 4, column b c = column b 0) : invShiftRows b = b := by
  have hinv := invShiftRows_shiftRows b
  rwa [shiftRows_of_equal_columns h] at hinv

/-- Two places to the left are two places to the right. -/
theorem shiftRows_getElem_row_two (b : Block) (c : Fin 4) :
    (shiftRows b)[2 + 4 * c.val] = (invShiftRows b)[2 + 4 * c.val] := by
  have hcol : c + 2 = c - 2 := by
    revert c
    decide
  have hleft := shiftRows_getElem b 2 c
  simp only [hcol] at hleft
  exact hleft.trans (invShiftRows_getElem b 2 c).symm

theorem shiftRows_getElem_row_zero (b : Block) (c : Fin 4) : (shiftRows b)[4 * c.val] = b[4 * c.val] := by
  simpa using shiftRows_getElem b 0 c

/-- Settles O18: by row and column the stages add the row to the column or subtract it, modulo 4. -/
theorem rowRotationStages : Obligations.RowRotationStages :=
  ⟨fun s => ⟨shiftRows s.regS, rfl, shiftRows_getElem s.regS⟩,
    fun s => ⟨invShiftRows s.regS, rfl, invShiftRows_getElem s.regS⟩,
    fun b => ⟨shiftRows_iterate_four b, invShiftRows_iterate_four b⟩,
    fun _ h => ⟨shiftRows_of_equal_columns h, invShiftRows_of_equal_columns h⟩,
    fun b c => ⟨shiftRows_getElem_row_two b c, shiftRows_getElem_row_zero b c⟩,
    decode_encode (i := .shiftrows) rfl, decode_encode (i := .invshiftrows) rfl⟩

/-- Settles O22: both orders give, at each place, the table entry of the same old byte. -/
theorem substitutionAndRotationCommute : Obligations.SubstitutionAndRotationCommute := by
  intro b
  constructor
  · apply block_ext_bytes
    intro r c
    simp only [shiftRows_getElem, subBytes_getElem]
  · apply block_ext_bytes
    intro r c
    simp only [invShiftRows_getElem, invSubBytes_getElem]

/-! ### MIXCOLUMNS and INVMIXCOLUMNS (43_block_transform.md R131, R132) -/

@[simp] theorem column_mixColumns (b : Block) (c : Fin 4) : column (mixColumns b) c = matCol mix (column b c) :=
  column_ofColumns _ c

@[simp] theorem column_invMixColumns (b : Block) (c : Fin 4) :
    column (invMixColumns b) c = matCol invMix (column b c) :=
  column_ofColumns _ c

@[simp] theorem column_xorBlock (a b : Block) (c : Fin 4) :
    column (xorBlock a b) c = xorWord (column a c) (column b c) := by
  ext1 r hr
  simp only [column_getElem, xorBlock_getElem, xorWord_getElem]

theorem one_gfmul (a : Byte) : gfmul 0x01 a = a :=
  (gfmul_comm 0x01 a).trans (gfmul_one a)

/-- A matrix whose rows each sum to 0x01 leaves a column of four equal bytes as it is. -/
theorem matCol_replicate_of_rowSum {m : Matrix4}
    (h : ∀ r : Fin 4, m[r.val][0] ^^^ m[r.val][1] ^^^ m[r.val][2] ^^^ m[r.val][3] = 0x01) (v : Byte) :
    matCol m (Vector.replicate 4 v) = Vector.replicate 4 v := by
  ext1 r hr
  have hsum := h ⟨r, hr⟩
  simp only [matCol, Vector.getElem_ofFn, Vector.getElem_replicate, ← gfmul_xor_left, hsum, one_gfmul]

theorem invMixColumns_mixColumns (b : Block) : invMixColumns (mixColumns b) = b := by
  apply block_ext_columns
  intro c
  rw [column_invMixColumns, column_mixColumns, matCol_invMix_mix]

theorem mixColumns_invMixColumns (b : Block) : mixColumns (invMixColumns b) = b := by
  apply block_ext_columns
  intro c
  rw [column_mixColumns, column_invMixColumns, matCol_mix_invMix]

theorem mixColumns_xorBlock (a b : Block) : mixColumns (xorBlock a b) = xorBlock (mixColumns a) (mixColumns b) := by
  apply block_ext_columns
  intro c
  simp only [column_mixColumns, column_xorBlock, matCol_xor]

theorem invMixColumns_xorBlock (a b : Block) :
    invMixColumns (xorBlock a b) = xorBlock (invMixColumns a) (invMixColumns b) := by
  apply block_ext_columns
  intro c
  simp only [column_invMixColumns, column_xorBlock, matCol_xor]

/-- Settles O19: the new columns are matrix products, and the laws of the stages are those of the products. -/
theorem columnMixingStages : Obligations.ColumnMixingStages := by
  refine ⟨fun s => ⟨mixColumns s.regS, column s.regS 3, rfl, fun c => ?_⟩,
    fun s => ⟨invMixColumns s.regS, column s.regS 3, rfl, fun c => ?_⟩,
    fun v => ⟨matCol_replicate_of_rowSum (by decide) v, matCol_replicate_of_rowSum (by decide) v⟩,
    fun a => ⟨matCol_invMix_mix a, matCol_mix_invMix a⟩,
    fun a b => ⟨mixColumns_xorBlock a b, invMixColumns_xorBlock a b⟩,
    decode_encode (i := .mixcolumns) rfl, decode_encode (i := .invmixcolumns) rfl⟩
  · rw [column_mixColumns, matCol_mix]
    simp only [one_gfmul]
  · rw [column_invMixColumns, matCol_invMix]

/-! ### ADDROUNDKEY (43_block_transform.md R133) -/

@[simp] theorem addRoundKey_getElem (b k : Block) (i : Nat) (h : i < 16) : (addRoundKey b k)[i] = b[i] ^^^ k[i] :=
  xorBlock_getElem b k i h

theorem addRoundKey_addRoundKey (b k : Block) : addRoundKey (addRoundKey b k) k = b :=
  xorBlock_cancel_right b k

theorem addRoundKey_zero (b : Block) : addRoundKey b (Vector.replicate 16 0x00) = b := by
  ext1 i hi
  simp only [addRoundKey_getElem, Vector.getElem_replicate, BitVec.ofNat_eq_ofNat, BitVec.xor_zero]

theorem addRoundKey_self (b : Block) : addRoundKey b b = Vector.replicate 16 0x00 := by
  ext1 i hi
  simp only [addRoundKey_getElem, Vector.getElem_replicate, BitVec.ofNat_eq_ofNat, BitVec.xor_self]

theorem exec_addroundkey_roundField (r : Round) (s : State) :
    exec (.addroundkey (roundField r)) s = .next (addRoundKeyOp r s) :=
  withRoundIndex_roundField 0 r (Nat.zero_le _) _

/-- The code of ADDROUNDKEY r as a sum, which is the row joined with the round index. -/
theorem decodeUop_addroundkey_add : ∀ r : Round,
    decodeUop (0x460#12 + BitVec.ofNat 12 r.val) = .ok (.addroundkey (roundField r)) := by
  decide

/-- Settles O20: each legal form XORs its round key; the codes above round 10 are those the decoder refuses. -/
theorem addRoundKeyStage : Obligations.AddRoundKeyStage := by
  obtain ⟨-, -, hrefused, -⟩ := reservedMicroOperationsAreRefused
  exact ⟨fun s r => ⟨decodeUop_addroundkey_add r, addRoundKey s.regS s.rk[r.val], exec_addroundkey_roundField r s,
      fun i => addRoundKey_getElem _ _ i i.isLt⟩,
    addRoundKey_addRoundKey, fun b => ⟨addRoundKey_zero b, addRoundKey_self b⟩, hrefused⟩

/-! ### The inverse pairs (43_block_transform.md R134) -/

/-- Settles O21: the tables byte by byte, the rotations byte by byte, the matrices column by column. -/
theorem stageInversePairs : Obligations.StageInversePairs :=
  fun b k => ⟨⟨invSubBytes_subBytes b, subBytes_invSubBytes b⟩, ⟨invShiftRows_shiftRows b, shiftRows_invShiftRows b⟩,
    ⟨invMixColumns_mixColumns b, mixColumns_invMixColumns b⟩, addRoundKey_addRoundKey b k⟩

end Sys2Proof.Machine
end

section
/-! PROOFS of the family 44_block_cipher_core.md: the two block operations stage by stage (R141, R142), that they undo each
other (R143, R146), and that the round machines, run step by step, compute them (R153 to R155). -/

namespace Sys2Proof.Machine

/-! ### The stages of the two operations (44_block_cipher_core.md R141, R142) -/

/-- The block after round `n` of ENCRYPTBLOCK, `n` at most 9 (44_block_cipher_core.md R141). -/
def encAfter (rk : Schedule) (b : Block) (n : Nat) : Block :=
  (innerRounds.take n).foldl (encRound rk) (addRoundKey b rk[0])

/-- The block after round `n` of DECRYPTBLOCK, `n` falling from 10 to 1 (44_block_cipher_core.md R142). -/
def decAfter (rk : Schedule) (b : Block) (n : Nat) : Block :=
  (innerRounds.reverse.take (10 - n)).foldl (decRound rk) (addRoundKey b rk[10])

theorem take_innerRounds_succ : ∀ r : Fin 9, innerRounds.take (r.val + 1) = innerRounds.take r.val ++ [r.succ.castSucc] := by
  decide

theorem take_reverse_innerRounds : ∀ r : Fin 9,
    innerRounds.reverse.take (10 - (r.val + 1)) = innerRounds.reverse.take (10 - (r.val + 2)) ++ [r.succ.castSucc] := by
  decide

theorem encAfter_succ (rk : Schedule) (b : Block) (r : Fin 9) :
    encAfter rk b (r.val + 1) = encRound rk (encAfter rk b r.val) r.succ.castSucc := by
  rw [encAfter, take_innerRounds_succ, List.foldl_append]
  rfl

theorem decAfter_succ (rk : Schedule) (b : Block) (r : Fin 9) :
    decAfter rk b (r.val + 1) = decRound rk (decAfter rk b (r.val + 2)) r.succ.castSucc := by
  rw [decAfter, take_reverse_innerRounds, List.foldl_append]
  rfl

theorem encryptBlock_eq_encAfter (b : Block) (rk : Schedule) :
    encryptBlock b rk = addRoundKey (shiftRows (subBytes (encAfter rk b 9))) rk[10] := rfl

theorem decryptBlock_eq_decAfter (b : Block) (rk : Schedule) :
    decryptBlock b rk = addRoundKey (invSubBytes (invShiftRows (decAfter rk b 1))) rk[0] := rfl

theorem exec_encryptblock (s : State) : ∃ col, exec .encryptblock s =
    .next { s with regS := encryptBlock s.regS s.rk, regCol := col, round := 10 } := by
  obtain ⟨col, h⟩ := encryptBlockOp_eq s
  exact ⟨col, congrArg Host.Outcome.next h⟩

theorem exec_decryptblock (s : State) : ∃ col, exec .decryptblock s =
    .next { s with regS := decryptBlock s.regS s.rk, regCol := col, round := 0 } := by
  obtain ⟨col, h⟩ := decryptBlockOp_eq s
  exact ⟨col, congrArg Host.Outcome.next h⟩

/-- Settles O23: the stages are `encAfter`. -/
theorem encryptBlockRunsTenRounds : Obligations.EncryptBlockRunsTenRounds := by
  refine ⟨decode_encode (i := .encryptblock) rfl, fun s => ?_⟩
  obtain ⟨col, h⟩ := exec_encryptblock s
  rw [encryptBlock_eq_encAfter] at h
  exact ⟨encAfter s.rk s.regS, col, 10, rfl, encAfter_succ s.rk s.regS, h⟩

/-- Settles O24: the stages are `decAfter`. -/
theorem decryptBlockRunsTheMirror : Obligations.DecryptBlockRunsTheMirror := by
  refine ⟨decode_encode (i := .decryptblock) rfl, fun s => ?_⟩
  obtain ⟨col, h⟩ := exec_decryptblock s
  rw [decryptBlock_eq_decAfter] at h
  exact ⟨decAfter s.rk s.regS, col, 0, rfl, decAfter_succ s.rk s.regS, h⟩

/-! ### The two operations undo each other (44_block_cipher_core.md R143, R146) -/

/-- A decryption round undoes an encryption round seen from the middle of the rounds: after SHIFTROWS, before MIXCOLUMNS. -/
theorem decRound_encRound (rk : Schedule) (b : Block) (r : Round) :
    decRound rk (shiftRows (subBytes (encRound rk b r))) r = shiftRows (subBytes b) := by
  rw [decRound, invShiftRows_shiftRows, invSubBytes_subBytes, encRound, addRoundKey_addRoundKey, invMixColumns_mixColumns]

/-- The converse, seen from after INVSUBBYTES, before ADDROUNDKEY. -/
theorem encRound_decRound (rk : Schedule) (b : Block) (r : Round) :
    encRound rk (invSubBytes (invShiftRows (decRound rk b r))) r = invSubBytes (invShiftRows b) := by
  rw [encRound, subBytes_invSubBytes, shiftRows_invShiftRows, decRound, mixColumns_invMixColumns, addRoundKey_addRoundKey]

/-- Rounds `g` in reverse order undo rounds `f`, seen through `u`, when each undoes its own. -/
theorem foldl_reverse_foldl {f g : Block → Round → Block} {u : Block → Block} (h : ∀ b r, g (u (f b r)) r = u b)
    (rs : List Round) (b : Block) : rs.reverse.foldl g (u (rs.foldl f b)) = u b := by
  induction rs generalizing b with
  | nil => rfl
  | cons r rs ih => rw [List.foldl_cons, List.reverse_cons, List.foldl_append, ih, List.foldl_cons, List.foldl_nil, h]

theorem decryptBlock_encryptBlock (b : Block) (rk : Schedule) : decryptBlock (encryptBlock b rk) rk = b := by
  rw [decryptBlock, encryptBlock, addRoundKey_addRoundKey,
    foldl_reverse_foldl (u := fun b => shiftRows (subBytes b)) (decRound_encRound rk),
    invShiftRows_shiftRows, invSubBytes_subBytes, addRoundKey_addRoundKey]

theorem encryptBlock_decryptBlock (b : Block) (rk : Schedule) : encryptBlock (decryptBlock b rk) rk = b := by
  have undo := foldl_reverse_foldl (u := fun b => invSubBytes (invShiftRows b)) (encRound_decRound rk) innerRounds.reverse
  rw [List.reverse_reverse] at undo
  rw [encryptBlock, decryptBlock, addRoundKey_addRoundKey, undo,
    subBytes_invSubBytes, shiftRows_invShiftRows, addRoundKey_addRoundKey]

/-- Settles O25: the functions undo each other round by round, and each micro-operation keeps RK for the other. -/
theorem blockRoundTrip : Obligations.BlockRoundTrip := by
  refine ⟨fun rk b => ⟨decryptBlock_encryptBlock b rk, encryptBlock_decryptBlock b rk⟩, fun s t u ht hu => ?_,
    fun s t u ht hu => ?_⟩
  · obtain ⟨_, hs⟩ := exec_encryptblock s
    cases hs.symm.trans ht
    obtain ⟨_, hs'⟩ := exec_decryptblock _
    cases hs'.symm.trans hu
    exact decryptBlock_encryptBlock s.regS s.rk
  · obtain ⟨_, hs⟩ := exec_decryptblock s
    cases hs.symm.trans ht
    obtain ⟨_, hs'⟩ := exec_encryptblock _
    cases hs'.symm.trans hu
    exact encryptBlock_decryptBlock s.regS s.rk

/-- Settles O26: the two-sided inverse gives the bijection. -/
theorem encryptBlockIsBijective : Obligations.EncryptBlockIsBijective := by
  intro rk
  have left : Function.LeftInverse (fun b => decryptBlock b rk) (fun b => encryptBlock b rk) :=
    fun b => decryptBlock_encryptBlock b rk
  have right : Function.RightInverse (fun b => decryptBlock b rk) (fun b => encryptBlock b rk) :=
    fun b => encryptBlock_decryptBlock b rk
  exact ⟨⟨left.injective, right.surjective⟩, left, right, fun _ _ => left.injective.ne⟩

/-! ### The round machines (44_block_cipher_core.md R153 to R155) -/

/-- State 0 of the encryption machine over its two steps (44_block_cipher_core.md R153). -/
theorem run_encRound_first {s : State} {rest : List SeqStep} (n : Nat) (h : s.seq = encRoundSteps 0 ++ rest) :
    Host.Core.run core (n + 2) s = Host.Core.run core n { s with
      regS := addRoundKey s.regS s.rk[0], round := 0, seq := rest } := by
  rw [run_sequencer (.setRound 0) _ s _ _ h rfl,
    run_issued _ (.addroundkey (roundField 0)) rest _ _ _ rfl (decodeUop_addroundkey 0) (exec_addroundkey 0 _)]
  rfl

/-- State 10 of the encryption machine over its four steps (44_block_cipher_core.md R153). -/
theorem run_encRound_last {s : State} {rest : List SeqStep} (n : Nat) (h : s.seq = encRoundSteps 10 ++ rest) :
    Host.Core.run core (n + 4) s = Host.Core.run core n { s with
      regS := addRoundKey (shiftRows (subBytes s.regS)) s.rk[10], round := 10, seq := rest } := by
  rw [run_sequencer (.setRound 10) _ s _ _ h rfl, run_issued _ .subbytes _ _ _ _ rfl rfl rfl,
    run_issued _ .shiftrows _ _ _ _ rfl rfl rfl,
    run_issued _ (.addroundkey (roundField 10)) rest _ _ _ rfl (decodeUop_addroundkey 10) (exec_addroundkey 10 _)]
  simp only [addRoundKeyOp, shiftRowsOp, subBytesOp]
  rfl

/-- State 10 of the decryption machine over its two steps (44_block_cipher_core.md R154). -/
theorem run_decRound_first {s : State} {rest : List SeqStep} (n : Nat) (h : s.seq = decRoundSteps 10 ++ rest) :
    Host.Core.run core (n + 2) s = Host.Core.run core n { s with
      regS := addRoundKey s.regS s.rk[10], round := 10, seq := rest } := by
  rw [run_sequencer (.setRound 10) _ s _ _ h rfl,
    run_issued _ (.addroundkey (roundField 10)) rest _ _ _ rfl (decodeUop_addroundkey 10) (exec_addroundkey 10 _)]
  rfl

/-- State 0 of the decryption machine over its four steps (44_block_cipher_core.md R154). -/
theorem run_decRound_last {s : State} {rest : List SeqStep} (n : Nat) (h : s.seq = decRoundSteps 0 ++ rest) :
    Host.Core.run core (n + 4) s = Host.Core.run core n { s with
      regS := addRoundKey (invSubBytes (invShiftRows s.regS)) s.rk[0], round := 0, seq := rest } := by
  rw [run_sequencer (.setRound 0) _ s _ _ h rfl, run_issued _ .invshiftrows _ _ _ _ rfl rfl rfl,
    run_issued _ .invsubbytes _ _ _ _ rfl rfl rfl,
    run_issued _ (.addroundkey (roundField 0)) rest _ _ _ rfl (decodeUop_addroundkey 0) (exec_addroundkey 0 _)]
  simp only [addRoundKeyOp, invSubBytesOp, invShiftRowsOp]
  rfl

/-- What one of the rounds 1 to 9 of a machine does over its five steps: `steps` are taken, and S becomes `f` of S. -/
def RunsRound (steps : Round → List SeqStep) (f : Schedule → Block → Round → Block) : Prop :=
  ∀ (r : Round) (rest : List SeqStep) (s : State) (n : Nat), r ∈ innerRounds → s.seq = steps r ++ rest →
    ∃ col, Host.Core.run core (n + 5) s = Host.Core.run core n { s with
      regS := f s.rk s.regS r, regCol := col, round := r, seq := rest }

theorem ne_ends_of_mem_innerRounds : ∀ r ∈ innerRounds, r.val ≠ 0 ∧ r.val ≠ 10 := by decide

theorem encRoundSteps_runsRound : RunsRound encRoundSteps encRound := fun r rest s n hr h =>
  have ⟨h0, h10⟩ := ne_ends_of_mem_innerRounds r hr
  ⟨_, run_encRound r h0 h10 rest s n h⟩

theorem decRoundSteps_runsRound : RunsRound decRoundSteps decRound := fun r rest s n hr h =>
  have ⟨h0, h10⟩ := ne_ends_of_mem_innerRounds r hr
  ⟨_, run_decRound r h0 h10 rest s n h⟩

/-- A machine over the inner rounds `rs`, in whatever order: S becomes the fold of their function. -/
theorem run_rounds {steps : Round → List SeqStep} {f : Schedule → Block → Round → Block} (hf : RunsRound steps f)
    {rs : List Round} (hrs : ∀ r ∈ rs, r ∈ innerRounds) {s : State} {rest : List SeqStep} (n : Nat)
    (h : s.seq = rs.flatMap steps ++ rest) :
    ∃ col rd, Host.Core.run core (n + 5 * rs.length) s = Host.Core.run core n { s with
      regS := rs.foldl (f s.rk) s.regS, regCol := col, round := rd, seq := rest } := by
  induction rs generalizing s with
  | nil =>
    refine ⟨s.regCol, s.round, ?_⟩
    rw [← show s.seq = rest from h]
    rfl
  | cons r rs ih =>
    rw [List.flatMap_cons, List.append_assoc] at h
    obtain ⟨hr, htail⟩ := List.forall_mem_cons.1 hrs
    obtain ⟨col, hround⟩ := hf r _ s (n + 5 * rs.length) hr h
    obtain ⟨col', rd, hrounds⟩ := ih htail
      (s := { s with regS := f s.rk s.regS r, regCol := col, round := r, seq := rs.flatMap steps ++ rest }) rfl
    exact ⟨col', rd, hround.trans hrounds⟩

/-- The encryption machine on `b`: the load, state 0, states 1 to 9, state 10. -/
theorem run_encryptBlockSteps (s : State) (b : Block) :
    ∃ col, Host.Core.run core 52 { s with seq := encryptBlockSteps b } =
      .next { s with regS := encryptBlock b s.rk, regCol := col, round := 10, seq := [] } := by
  obtain ⟨col, rd, hinner⟩ := run_rounds encRoundSteps_runsRound (rs := innerRounds) (fun _ => id)
    (s := { s with
      regS := addRoundKey b s.rk[0], round := 0, seq := innerRounds.flatMap encRoundSteps ++ encRoundSteps 10 }) 4 rfl
  refine ⟨col, ?_⟩
  rw [run_sequencer (.loadS b) _ _ _ 51 rfl rfl,
    run_encRound_first (rest := innerRounds.flatMap encRoundSteps ++ encRoundSteps 10) 49 rfl]
  exact hinner.trans (run_encRound_last (rest := []) 0 rfl)

/-- The decryption machine on `b`: the load, state 10, states 9 to 1, state 0. -/
theorem run_decryptBlockSteps (s : State) (b : Block) :
    ∃ col, Host.Core.run core 52 { s with seq := decryptBlockSteps b } =
      .next { s with regS := decryptBlock b s.rk, regCol := col, round := 0, seq := [] } := by
  obtain ⟨col, rd, hinner⟩ := run_rounds decRoundSteps_runsRound (rs := innerRounds.reverse) (fun _ => List.mem_reverse.1)
    (s := { s with
      regS := addRoundKey b s.rk[10], round := 10
      seq := innerRounds.reverse.flatMap decRoundSteps ++ decRoundSteps 0 }) 4 rfl
  refine ⟨col, ?_⟩
  rw [run_sequencer (.loadS b) _ _ _ 51 rfl rfl,
    run_decRound_first (rest := innerRounds.reverse.flatMap decRoundSteps ++ decRoundSteps 0) 49 rfl]
  exact hinner.trans (run_decRound_last (rest := []) 0 rfl)

/-- Settles O27: the two machines run step by step, and the two micro-operations. -/
theorem roundMachinesComputeTheFunctions : Obligations.RoundMachinesComputeTheFunctions := by
  refine ⟨run_encryptBlockSteps, run_decryptBlockSteps, fun s => ?_, fun s => ?_⟩
  · obtain ⟨col, h⟩ := exec_encryptblock s
    exact ⟨_, h, rfl⟩
  · obtain ⟨col, h⟩ := exec_decryptblock s
    exact ⟨_, h, rfl⟩

end Sys2Proof.Machine
end

section
/-! PROOFS of the family 45_padding.md: PAD writes its padding (R161), UNPAD takes back exactly what PAD gives (R162, R163),
and what the two micro-operations leave. -/

namespace Sys2Proof.Machine

/-! ### PAD (45_padding.md R161) -/

theorem pad_eq (d : List Byte) :
    pad d = d ++ List.replicate (16 - d.length % 16) (BitVec.ofNat 8 (16 - d.length % 16)) := rfl

/-- A padding of 1 to 16 bytes that fills the last block is PAD's: R161 gives its length. -/
theorem append_replicate_eq_pad {d : List Byte} {l : Nat} (h1 : 1 ≤ l) (h16 : l ≤ 16) (hfill : (d.length + l) % 16 = 0) :
    d ++ List.replicate l (BitVec.ofNat 8 l) = pad d := by
  have hl : l = 16 - d.length % 16 := by omega
  rw [pad_eq, ← hl]

theorem exec_pad_of_dataIn {s : State} {d : List Byte} (h : s.dataIn = some d) :
    exec .pad s = .next { s with work := pad d } := by
  simp only [exec, execPad, h]

/-! ### UNPAD undoes PAD and nothing else (45_padding.md R162, R163) -/

theorem memRead_zero_append_memRead {x : List Byte} {n : Nat} (h : n ≤ x.length) :
    memRead x 0 (x.length - n) ++ memRead x (x.length - n) n = x := by
  have htail : (x.drop (x.length - n)).length ≤ n := by rw [List.length_drop]; omega
  rw [memRead, memRead, List.drop_zero, List.take_of_length_le htail, List.take_append_drop]

theorem memRead_append_left (a b : List Byte) : memRead (a ++ b) 0 a.length = a := by
  simp [memRead]

theorem memRead_append_replicate (a : List Byte) (l : Nat) (b : Byte) :
    memRead (a ++ List.replicate l b) a.length l = List.replicate l b := by
  simp [memRead]

/-- UNPAD takes off `l` bytes of value `l`, `l` in 1..16, that fill the last block. -/
theorem unpad_append_replicate {d : List Byte} {l : Nat} (h1 : 1 ≤ l) (h16 : l ≤ 16) (hfill : (d.length + l) % 16 = 0) :
    unpad (d ++ List.replicate l (BitVec.ofNat 8 l)) = .ok d := by
  have hvalue : (BitVec.ofNat 8 l).toNat = l := by
    rw [BitVec.toNat_ofNat]
    omega
  have hlast : (d ++ List.replicate l (BitVec.ofNat 8 l)).getD (d.length + l - 1) Config.noByte = BitVec.ofNat 8 l := by
    rw [List.getD_append_right _ _ _ _ (by omega), List.getD_replicate _ (by omega)]
  have hall : (List.replicate l (BitVec.ofNat 8 l)).any (· != BitVec.ofNat 8 l) = false := by simp
  simp only [unpad, List.length_append, List.length_replicate, hlast, hvalue, Nat.add_sub_cancel,
    memRead_append_replicate, memRead_append_left, hall]
  rw [if_neg (by omega), if_neg (not_not.2 hfill), if_neg (by omega), if_neg (Nat.not_lt.2 h16),
    if_neg Bool.false_ne_true]

theorem unpad_pad (d : List Byte) : unpad (pad d) = .ok d := by
  rw [pad_eq]
  exact unpad_append_replicate (by omega) (by omega) (by omega)

theorem eq_replicate_of_not_any_ne {ys : List Byte} {b : Byte} (h : ¬ ys.any (· != b) = true) :
    ys = List.replicate ys.length b :=
  List.eq_replicate_length.2 fun y hy => by_contra fun hne => h (List.any_eq_true.2 ⟨y, hy, bne_iff_ne.2 hne⟩)

/-- A whole number of blocks that ends with as many bytes `last` as its value says, 1 to 16, is a padded sequence. -/
theorem eq_pad_of_memRead_all_eq {x : List Byte} {last : Byte} (h0 : x.length ≠ 0) (hblocks : x.length % 16 = 0)
    (h1 : last.toNat ≠ 0) (h16 : last.toNat ≤ 16)
    (hall : ¬ (memRead x (x.length - last.toNat) last.toNat).any (· != last) = true) :
    x = pad (memRead x 0 (x.length - last.toNat)) := by
  have htail : (memRead x (x.length - last.toNat) last.toNat).length = last.toNat := by
    rw [memRead, List.length_take, List.length_drop]
    omega
  have hbody : (memRead x 0 (x.length - last.toNat)).length = x.length - last.toNat := by
    rw [memRead, List.length_take, List.drop_zero]
    omega
  calc x = memRead x 0 (x.length - last.toNat) ++ memRead x (x.length - last.toNat) last.toNat :=
        (memRead_zero_append_memRead (by omega)).symm
    _ = memRead x 0 (x.length - last.toNat) ++ List.replicate last.toNat (BitVec.ofNat 8 last.toNat) := by
        rw [eq_replicate_of_not_any_ne hall, htail, BitVec.ofNat_toNat, BitVec.setWidth_eq]
    _ = pad (memRead x 0 (x.length - last.toNat)) :=
        append_replicate_eq_pad (by omega) h16 (by rw [hbody]; omega)

/-- What UNPAD can do: its argument is a padded sequence, or it fails with InvalidPadding. -/
theorem eq_pad_or_unpad_eq_error (x : List Byte) : (∃ d, x = pad d) ∨ unpad x = .error .invalidPadding := by
  simp only [unpad]
  split_ifs with h0 hblocks h1 h16 hall
  · exact .inr rfl
  · exact .inr rfl
  · exact .inr rfl
  · exact .inr rfl
  · exact .inr rfl
  · exact .inl ⟨_, eq_pad_of_memRead_all_eq h0 (not_not.1 hblocks) h1 (Nat.le_of_not_gt h16) hall⟩

/-- UNPAD succeeds exactly on the image of PAD (45_padding.md R163). -/
theorem unpad_eq_ok_iff (x d : List Byte) : unpad x = .ok d ↔ x = pad d := by
  refine ⟨fun h => ?_, fun h => h ▸ unpad_pad d⟩
  rcases eq_pad_or_unpad_eq_error x with ⟨d', rfl⟩ | herr
  · rw [unpad_pad, Except.ok.injEq] at h
    rw [h]
  · rw [herr] at h
    cases h

theorem eq_invalidPadding_of_unpad_eq_error {x : List Byte} {e : ErrorKind} (h : unpad x = .error e) :
    e = .invalidPadding := by
  rcases eq_pad_or_unpad_eq_error x with ⟨d, rfl⟩ | herr
  · rw [unpad_pad] at h
    cases h
  · exact Except.error.inj (h.symm.trans herr)

theorem pad_length_mod (d : List Byte) : (pad d).length % 16 = 0 := by
  rw [pad_length]
  omega

/-- The padded sequences in R162's words: a positive multiple of 16 bytes, the last `l` of value `l`, `l` in 1..16. -/
theorem eq_pad_iff (x d : List Byte) : x = pad d ↔
    ∃ l : Nat, 1 ≤ l ∧ l ≤ 16 ∧ x.length ≠ 0 ∧ x.length % 16 = 0 ∧ x = d ++ List.replicate l (BitVec.ofNat 8 l) := by
  constructor
  · rintro rfl
    have hpos : (pad d).length ≠ 0 := by
      rw [pad_length]
      omega
    exact ⟨16 - d.length % 16, by omega, by omega, hpos, pad_length_mod d, pad_eq d⟩
  · rintro ⟨l, h1, h16, -, hblocks, rfl⟩
    rw [List.length_append, List.length_replicate] at hblocks
    exact append_replicate_eq_pad h1 h16 hblocks

theorem exec_unpad_of_ok {s : State} {d : List Byte} (h : unpad s.work = .ok d) :
    exec .unpad s = .next { s with result := .bytes d } := by
  simp only [exec, execUnpad, h]

theorem exec_unpad_of_error {s : State} {e : ErrorKind} (h : unpad s.work = .error e) :
    exec .unpad s = .next (raise e s) := by
  simp only [exec, execUnpad, h]

theorem exec_unpad_dataOut {s t : State} (h : exec .unpad s = .next t) : t.dataOut = s.dataOut := by
  obtain ⟨hout, -⟩ := exec_frame_of_canRaise (i := .unpad) rfl h
  simp only [State.outside, Prod.mk.injEq] at hout
  obtain ⟨-, -, hdata, -⟩ := hout
  exact hdata

/-! ### The obligations -/

/-- Settles O29: UNPAD accepts the image of PAD, which is R162's set. -/
theorem unpadAcceptsExactlyPadding : Obligations.UnpadAcceptsExactlyPadding :=
  ⟨fun x d => (unpad_eq_ok_iff x d).trans (eq_pad_iff x d), fun _ _ => eq_invalidPadding_of_unpad_eq_error,
    fun _ _ => exec_unpad_dataOut, decode_encode (i := .unpad) rfl⟩

/-- Settles O30: the lengths by arithmetic, the laws with UNPAD from its success on PAD's image, injectivity from its
inverse. -/
theorem paddingLaws : Obligations.PaddingLaws := by
  refine ⟨fun d => ?_, fun d => ?_, unpad_pad, fun x d h => ((unpad_eq_ok_iff x d).1 h).symm, fun d d' h => ?_⟩
  · rw [pad_length]
    omega
  · rw [pad_length]
    split <;> omega
  · have hunpad : unpad (pad d) = .ok d' := h ▸ unpad_pad d'
    exact Except.ok.inj ((unpad_pad d).symm.trans hunpad)

/-- Settles O31: WORK is padded, and UNPAD gives what was padded, or it is not, and UNPAD fails. -/
theorem unpadReturnsOrRaises : Obligations.UnpadReturnsOrRaises := by
  refine ⟨fun s d l h1 h16 hfill hwork => ?_, fun s hnone => ?_⟩
  · exact exec_unpad_of_ok (hwork ▸ unpad_append_replicate h1 h16 hfill)
  · rcases eq_pad_or_unpad_eq_error s.work with ⟨d, hpad⟩ | herr
    · rw [pad_eq] at hpad
      exact absurd hpad (hnone d _ (by omega) (by omega) (by omega))
    · exact exec_unpad_of_error herr

/-- Settles O28: PAD is the two parts R161 names. -/
theorem padAppendsItsLength : Obligations.PadAppendsItsLength :=
  ⟨fun _ _ => exec_pad_of_dataIn, pad_eq, fun n => by omega, decode_encode (i := .pad) rfl⟩

end Sys2Proof.Machine
end

section
/-! PROOFS of the family 46_cbc_commands.md: CBCENC and CBCDEC block by block (R171, R172), that CBCDEC succeeds exactly on
what CBCENC gives (R179), from which the lengths (R180) and half of the tampering law (R182) follow; the commands case by
case (R174 to R178, R184); and that the loops over the registers leave what the commands leave (R181). -/

namespace Sys2Proof.Machine

/-! ### Blocks -/

/-- Byte sequences of the same whole number of blocks are equal when their blocks are. -/
theorem eq_of_blockAt_eq {x y : List Byte} (hlen : x.length = y.length) (h16 : x.length % 16 = 0)
    (h : ∀ k, k < x.length / 16 → blockAt x k = blockAt y k) : x = y := by
  refine List.ext_getElem hlen fun i hx hy => ?_
  have hbyte : (blockAt x (i / 16))[i % 16] = (blockAt y (i / 16))[i % 16] := by rw [h (i / 16) (by omega)]
  rw [blockAt_getElem x _ _ (by omega), blockAt_getElem y _ _ (by omega)] at hbyte
  simpa only [Nat.div_add_mod] using hbyte

theorem xorBlock_injective (c : Block) : Function.Injective fun a => xorBlock a c :=
  Function.LeftInverse.injective (g := fun a => xorBlock a c) fun a => xorBlock_cancel_right a c

theorem decryptBlock_injective (rk : Schedule) : Function.Injective fun b => decryptBlock b rk :=
  Function.LeftInverse.injective (g := fun b => encryptBlock b rk) fun b => encryptBlock_decryptBlock b rk

/-- C_(k-1), what block `k` of a ciphertext `c` is chained with: the IV for block 0 (46_cbc_commands.md R171, R172). -/
def chainedWith (iv : Block) (c : List Byte) (k : Nat) : Block := if k = 0 then iv else blockAt c (k - 1)

@[simp] theorem chainedWith_zero (iv : Block) (c : List Byte) : chainedWith iv c 0 = iv := rfl

@[simp] theorem chainedWith_succ (iv : Block) (c : List Byte) (k : Nat) : chainedWith iv c (k + 1) = blockAt c k := rfl

theorem chainedWith_congr {iv : Block} {c c' : List Byte} {k : Nat} (h : ∀ i, k = i + 1 → blockAt c' i = blockAt c i) :
    chainedWith iv c' k = chainedWith iv c k := by
  cases k with
  | zero => rw [chainedWith_zero, chainedWith_zero]
  | succ i => rw [chainedWith_succ, chainedWith_succ, h i rfl]

/-- Block `k` of a CBC encryption of whole blocks (46_cbc_commands.md R171). -/
theorem blockAt_cbcEncLoop_zero (rk : Schedule) (iv : Block) (x : List Byte) {n k : Nat} (hk : k < n) :
    blockAt (cbcEncLoop rk x n 0 iv) k =
      encryptBlock (xorBlock (blockAt x k) (chainedWith iv (cbcEncLoop rk x n 0 iv) k)) rk := by
  have h := blockAt_cbcEncLoop rk x n 0 iv k hk
  rwa [Nat.zero_add] at h

/-- Block `k` of a CBC decryption of whole blocks (46_cbc_commands.md R172). -/
theorem blockAt_cbcDecLoop_zero (rk : Schedule) (iv : Block) (c : List Byte) {n k : Nat} (hk : k < n) :
    blockAt (cbcDecLoop rk c n 0 iv) k = xorBlock (decryptBlock (blockAt c k) rk) (chainedWith iv c k) := by
  have h := blockAt_cbcDecLoop rk c n 0 iv k hk
  rwa [Nat.zero_add] at h

/-! ### The two functions in closed form (46_cbc_commands.md R171, R172) -/

theorem cbcEnc_length_eq_pad (rk : Schedule) (iv : Block) (p : List Byte) :
    (cbcEnc rk iv p).length = (pad p).length := by
  rw [cbcEnc, cbcEncLoop_length]
  have := pad_length_mod p
  omega

theorem cbcEnc_length (rk : Schedule) (iv : Block) (p : List Byte) :
    (cbcEnc rk iv p).length = p.length + 16 - p.length % 16 := by
  rw [cbcEnc_length_eq_pad, pad_length]
  omega

theorem cbcDec_of_wrong_size (rk : Schedule) (iv : Block) {c : List Byte} (h : c.length = 0 ∨ c.length % 16 ≠ 0) :
    cbcDec rk iv c = .error .invalidInputSize := by
  rw [cbcDec]
  split_ifs with h0 h16
  · rfl
  · rfl
  · exact absurd h (not_or.2 ⟨h0, h16⟩)

theorem cbcDec_of_whole_blocks (rk : Schedule) (iv : Block) {c : List Byte} (h0 : c.length ≠ 0) (h16 : c.length % 16 = 0) :
    cbcDec rk iv c = unpad (cbcDecLoop rk c (c.length / 16) 0 iv) := by
  rw [cbcDec, if_neg h0, if_neg (not_not.2 h16)]

/-- A ciphertext is of the wrong size, or it is some whole blocks. -/
theorem wrong_size_or_whole_blocks (c : List Byte) :
    (c.length = 0 ∨ c.length % 16 ≠ 0) ∨ c.length ≠ 0 ∧ c.length % 16 = 0 := by
  omega

/-- Settles O32: block by block from the loop on the padded message. -/
theorem cbcEncryptClosedForm : Obligations.CbcEncryptClosedForm := by
  refine ⟨fun rk iv p => ⟨cbcEnc_length rk iv p, fun k hk => blockAt_cbcEncLoop_zero rk iv (pad p) ?_⟩,
    decode_encode (i := .cbcenc) rfl⟩
  rwa [cbcEnc_length_eq_pad] at hk

/-- Settles O33: what is unpadded is the value of the loop. -/
theorem cbcDecryptClosedForm : Obligations.CbcDecryptClosedForm := by
  refine ⟨fun rk iv c => cbcDec_of_wrong_size rk iv, fun rk iv c h0 h16 => ?_, decode_encode (i := .cbcdec) rfl⟩
  refine ⟨cbcDecLoop rk c (c.length / 16) 0 iv, ?_, fun k hk => blockAt_cbcDecLoop_zero rk iv c hk,
    cbcDec_of_whole_blocks rk iv h0 h16⟩
  rw [cbcDecLoop_length]
  omega

/-! ### CBCDEC succeeds exactly on what CBCENC gives (46_cbc_commands.md R179, R180) -/

/-- Decrypting the blocks of an encryption: block `k` is chained with the same block in both directions. -/
theorem cbcDecLoop_cbcEncLoop (rk : Schedule) (iv : Block) {x : List Byte} (h16 : x.length % 16 = 0) :
    cbcDecLoop rk (cbcEncLoop rk x (x.length / 16) 0 iv) (x.length / 16) 0 iv = x := by
  have hlen := cbcDecLoop_length rk (cbcEncLoop rk x (x.length / 16) 0 iv) (x.length / 16) 0 iv
  refine eq_of_blockAt_eq (by omega) (by omega) fun k hk => ?_
  have hk : k < x.length / 16 := by omega
  rw [blockAt_cbcDecLoop_zero rk iv _ hk, blockAt_cbcEncLoop_zero rk iv x hk, decryptBlock_encryptBlock,
    xorBlock_cancel_right]

/-- Encrypting the blocks of a decryption: the blocks come back one after the other, each once the one before it is back. -/
theorem cbcEncLoop_cbcDecLoop (rk : Schedule) (iv : Block) {c : List Byte} (h16 : c.length % 16 = 0) :
    cbcEncLoop rk (cbcDecLoop rk c (c.length / 16) 0 iv) (c.length / 16) 0 iv = c := by
  have hlen := cbcEncLoop_length rk (cbcDecLoop rk c (c.length / 16) 0 iv) (c.length / 16) 0 iv
  refine eq_of_blockAt_eq (by omega) (by omega) fun k hk => ?_
  have hk : k < c.length / 16 := by omega
  induction k with
  | zero =>
    rw [blockAt_cbcEncLoop_zero rk iv _ hk, blockAt_cbcDecLoop_zero rk iv c hk, chainedWith_zero, chainedWith_zero,
      xorBlock_cancel_right, encryptBlock_decryptBlock]
  | succ k ih =>
    rw [blockAt_cbcEncLoop_zero rk iv _ hk, blockAt_cbcDecLoop_zero rk iv c hk, chainedWith_succ, chainedWith_succ,
      ih (by omega) (by omega), xorBlock_cancel_right, encryptBlock_decryptBlock]

theorem cbcDec_cbcEnc (rk : Schedule) (iv : Block) (p : List Byte) : cbcDec rk iv (cbcEnc rk iv p) = .ok p := by
  have hlen := cbcEnc_length_eq_pad rk iv p
  have hpad := pad_length p
  have h16 := pad_length_mod p
  rw [cbcDec_of_whole_blocks rk iv (by omega) (by omega), hlen, cbcEnc, cbcDecLoop_cbcEncLoop rk iv h16, unpad_pad]

theorem cbcDec_eq_ok_iff (rk : Schedule) (iv : Block) (c p : List Byte) :
    cbcDec rk iv c = .ok p ↔ c = cbcEnc rk iv p := by
  refine ⟨fun h => ?_, fun h => h ▸ cbcDec_cbcEnc rk iv p⟩
  rcases wrong_size_or_whole_blocks c with hsize | ⟨h0, h16⟩
  · rw [cbcDec_of_wrong_size rk iv hsize] at h
    cases h
  · rw [cbcDec_of_whole_blocks rk iv h0 h16, unpad_eq_ok_iff] at h
    have hblocks : (pad p).length / 16 = c.length / 16 := by
      rw [← h, cbcDecLoop_length]
      omega
    rw [cbcEnc, hblocks, ← h, cbcEncLoop_cbcDecLoop rk iv h16]

/-- Settles O37: a ciphertext that decrypts is an encryption, longer by its padding. -/
theorem messageLengths : Obligations.MessageLengths := by
  refine ⟨fun rk iv p => ?_, fun rk iv c p h => ?_⟩
  · have hlen := cbcEnc_length rk iv p
    exact ⟨hlen, by omega, by omega, fun _ => by omega⟩
  · obtain rfl := (cbcDec_eq_ok_iff rk iv c p).1 h
    have hlen := cbcEnc_length rk iv p
    exact ⟨16 - p.length % 16, by omega, by omega, by omega, by omega, by omega⟩

/-! ### Tampering (46_cbc_commands.md R182) -/

/-- A change `d` of the block chained with shows as the change `d` of the decrypted block. -/
theorem blockAt_cbcDecLoop_of_chain_xor (rk : Schedule) {iv iv' d : Block} {c c' : List Byte} {n k : Nat} (hk : k < n)
    (hblock : blockAt c' k = blockAt c k) (hchain : chainedWith iv' c' k = xorBlock (chainedWith iv c k) d) :
    blockAt (cbcDecLoop rk c' n 0 iv') k = xorBlock (blockAt (cbcDecLoop rk c n 0 iv) k) d := by
  rw [blockAt_cbcDecLoop_zero rk iv' c' hk, blockAt_cbcDecLoop_zero rk iv c hk, hblock, hchain, xorBlock_assoc]

/-- A block decrypts to the same when it and the block chained with are the same. -/
theorem blockAt_cbcDecLoop_congr (rk : Schedule) {iv iv' : Block} {c c' : List Byte} {n k : Nat} (hk : k < n)
    (hblock : blockAt c' k = blockAt c k) (hchain : chainedWith iv' c' k = chainedWith iv c k) :
    blockAt (cbcDecLoop rk c' n 0 iv') k = blockAt (cbcDecLoop rk c n 0 iv) k := by
  rw [blockAt_cbcDecLoop_zero rk iv' c' hk, blockAt_cbcDecLoop_zero rk iv c hk, hblock, hchain]

/-- A changed block decrypts to another one when the block chained with is the same: decryption and XOR are injective. -/
theorem blockAt_cbcDecLoop_ne (rk : Schedule) {iv : Block} {c c' : List Byte} {n k : Nat} (hk : k < n)
    (hblock : blockAt c' k ≠ blockAt c k) (hchain : chainedWith iv c' k = chainedWith iv c k) :
    blockAt (cbcDecLoop rk c' n 0 iv) k ≠ blockAt (cbcDecLoop rk c n 0 iv) k := by
  rw [blockAt_cbcDecLoop_zero rk iv c' hk, blockAt_cbcDecLoop_zero rk iv c hk, hchain]
  exact fun h => hblock (decryptBlock_injective rk (xorBlock_injective _ h))

/-- Settles O38: the one ciphertext that decrypts to P is its encryption; a changed IV or earlier block reaches the
decrypted message by its own decryption and by the chaining of the next block. -/
theorem tamperSensitivity : Obligations.TamperSensitivity := by
  refine ⟨fun rk iv p c c' hc _ _ hne h => ?_, fun rk iv d c hpos h16 => ?_,
    fun rk iv d c c' j h16 hlen hj hd hother => ?_⟩
  · exact hne (((cbcDec_eq_ok_iff rk iv c' p).1 h).trans hc.symm)
  · refine ⟨blockAt_cbcDecLoop_of_chain_xor rk (by omega) rfl rfl, fun k h0 hk => ?_⟩
    obtain ⟨i, rfl⟩ := Nat.exists_eq_succ_of_ne_zero h0.ne'
    exact blockAt_cbcDecLoop_congr rk hk rfl rfl
  · refine ⟨blockAt_cbcDecLoop_of_chain_xor rk hj (hother _ hj (by omega)) hd, fun k hk hkj hkj' => ?_, fun hne => ?_⟩
    · exact blockAt_cbcDecLoop_congr rk hk (hother k hk hkj)
        (chainedWith_congr fun i hi => hother i (by omega) (by omega))
    · exact blockAt_cbcDecLoop_ne rk (by omega) hne (chainedWith_congr fun i hi => hother i (by omega) (by omega))

/-! ### The loops over the registers (46_cbc_commands.md R181) -/

/-- CBCDEC over the registers, when the function gives bytes. -/
theorem cbcDecOp_of_ok {s : State} {iv : Block} {c p : List Byte} (h : cbcDec s.rk iv c = .ok p) :
    ∃ (a b x : Block) (col : Word) (rd : Round) (i n : Nat) (w : List Byte),
      cbcDecOp iv c s = { s with
        regS := a, regCv := b, regNxt := x, regCol := col, round := rd, blk := i, nblk := n, work := w,
        result := .bytes p } := by
  rcases wrong_size_or_whole_blocks c with hsize | ⟨h0, h16⟩
  · rw [cbcDec_of_wrong_size s.rk iv hsize] at h
    cases h
  · obtain ⟨t, ⟨a, b, x, col, rd, i, n, rfl⟩, hop⟩ := cbcDecOp_eq iv c s h0 h16
    rw [h] at hop
    exact ⟨a, b, x, col, rd, i, n, _, hop⟩

theorem cbcDecOp_of_wrong_size {iv : Block} {c : List Byte} (s : State) (h : c.length = 0 ∨ c.length % 16 ≠ 0) :
    cbcDecOp iv c s = raise .invalidInputSize s := by
  rw [cbcDecOp]
  split_ifs with h0 h16
  · rfl
  · rfl
  · exact absurd h (not_or.2 ⟨h0, h16⟩)

/-- CBCDEC over the registers, when the function gives an error: it is raised, and until then only transients changed. -/
theorem cbcDecOp_of_error {s : State} {iv : Block} {c : List Byte} {e : ErrorKind} (h : cbcDec s.rk iv c = .error e) :
    ∃ t : State, cbcDecOp iv c s = raise e t ∧ t.persistent = s.persistent := by
  rcases wrong_size_or_whole_blocks c with hsize | ⟨h0, h16⟩
  · rw [cbcDec_of_wrong_size s.rk iv hsize, Except.error.injEq] at h
    subst h
    exact ⟨s, cbcDecOp_of_wrong_size s hsize, rfl⟩
  · obtain ⟨t, ⟨a, b, x, col, rd, i, n, rfl⟩, hop⟩ := cbcDecOp_eq iv c s h0 h16
    rw [h] at hop
    exact ⟨_, hop, rfl⟩

theorem exec_cbcenc_of_operands {s : State} {iv : Block} {d : List Byte} (hiv : s.iv = some iv) (hd : s.dataIn = some d) :
    exec .cbcenc s = .next (cbcEncOp iv d s) := by
  simp only [exec, execCbcenc, (cbcOperands_eq_some s iv d).2 ⟨hiv, hd⟩]

theorem exec_cbcdec_of_operands {s : State} {iv : Block} {c : List Byte} (hiv : s.iv = some iv) (hc : s.dataIn = some c) :
    exec .cbcdec s = .next (cbcDecOp iv c s) := by
  simp only [exec, execCbcdec, (cbcOperands_eq_some s iv c).2 ⟨hiv, hc⟩]

/-- Settles O34, from what the two loops over the registers leave. -/
theorem cbcMicroOperationsComputeTheFunctions : Obligations.CbcMicroOperationsComputeTheFunctions := by
  refine ⟨fun s iv d hiv hd => ?_, fun s iv c p hiv hc h => ?_, fun s iv c e hiv hc h => ?_⟩
  · rw [exec_cbcenc_of_operands hiv hd]
    simpa only [Host.Outcome.next.injEq] using cbcEncOp_eq iv d s
  · rw [exec_cbcdec_of_operands hiv hc]
    simpa only [Host.Outcome.next.injEq] using cbcDecOp_of_ok h
  · obtain ⟨t, hop, ht⟩ := cbcDecOp_of_error h
    rw [exec_cbcdec_of_operands hiv hc, hop]
    exact ⟨_, rfl, by rw [raise_persistent, ht], rfl⟩

/-! ### INIT and the reserved commands (46_cbc_commands.md R174, R175, R178) -/

theorem initCommand_of_key {s : State} {key : Block} (h : s.keyIn = some key.toList) :
    initCommand s = finish { s with key := key, rk := schedule key, ctxValid := true } := by
  simp [initCommand, h, expand, Config.keyBytes]

theorem initCommand_persistent_of_key {s : State} {key : Block} (h : s.keyIn = some key.toList) :
    (initCommand s).persistent = { s.persistent with context := some (key, schedule key), err := .ok } := by
  rw [initCommand_of_key h]
  rfl

theorem initCommand_of_absent {s : State} (h : s.keyIn = none) : initCommand s = raise .genericError s := by
  simp only [initCommand, h]

theorem initCommand_of_length {s : State} {k : List Byte} (h : s.keyIn = some k) (hk : k.length ≠ 16) :
    initCommand s = raise .invalidKeySize s := by
  simp only [initCommand, h, expand, Config.keyBytes, if_neg hk]

/-- An INIT that does not end with OK is an error entry. -/
theorem initCommand_of_err_ne_ok {s : State} (h : (initCommand s).err ≠ .ok) : ∃ e, initCommand s = raise e s := by
  rcases initCommand_cases s with ⟨-, hinit⟩ | ⟨k, -, -, hinit⟩ | ⟨k, -, -, hinit⟩
  · exact ⟨_, hinit⟩
  · exact ⟨_, hinit⟩
  · rw [hinit] at h
    exact absurd rfl h

/-- Settles O39: INIT by the three cases of KEY_IN; the new RK is the schedule, whose round keys obey R115's recursion. -/
theorem initCreatesTheContext : Obligations.InitCreatesTheContext := by
  refine ⟨commandStep_of_decodeCmd rfl, fun s key h => ?_, fun s h => ?_, fun s k h hk => ?_⟩
  · refine ⟨_, congrArg Host.Outcome.next (initCommand_of_key h), rfl, ?_, fun r => ?_, rfl, rfl, ?_, rfl, rfl, rfl, rfl⟩
    · rw [finish_rk, schedule_getElem, roundKey_zero]
    · rw [finish_rk, schedule_getElem, schedule_getElem, roundKey_succ]
    · rw [status_ctxValid, finish_ctxValid]
  · exact ⟨_, congrArg Host.Outcome.next (initCommand_of_absent h), rfl⟩
  · exact ⟨_, congrArg Host.Outcome.next (initCommand_of_length h hk), rfl⟩

/-- Settles O40: a failed INIT is an error entry, which keeps all that persists but STATUS.ERR. -/
theorem failedInitChangesOnlyErr : Obligations.FailedInitChangesOnlyErr := by
  intro s t h herr
  cases h
  obtain ⟨e, hinit⟩ := initCommand_of_err_ne_ok herr
  rw [hinit]
  exact ⟨rfl, rfl, rfl, raise_persistent e s⟩

theorem commandStep_of_reserved {c : CmdCode} (h1 : c ≠ 0x01) (h2 : c ≠ 0x02) (h3 : c ≠ 0x03) (s : State) :
    commandStep c s = .next (raise .genericError s) := by
  rcases commandStep_cases c s with ⟨h, -⟩ | ⟨h, -⟩ | ⟨h, -⟩ | ⟨-, -, -, h⟩
  · exact absurd h h1
  · exact absurd h h2
  · exact absurd h h3
  · exact h

/-- Settles O43: a reserved command is the error entry with code 4. -/
theorem reservedCommandChangesOnlyErr : Obligations.ReservedCommandChangesOnlyErr := by
  intro c s h1 h2 h3
  obtain ⟨herr, -⟩ := status_fields (raise .genericError s)
  exact ⟨_, commandStep_of_reserved h1 h2 h3 s, rfl, rfl, rfl, raise_persistent _ s, herr, rfl⟩

/-! ### ENCRYPT and DECRYPT (46_cbc_commands.md R176, R177, R179) -/

/-- The operands are looked up after DATA_OUT has been made absent, which is none of them. -/
theorem cipherOperands_withoutDataOut {s : State} {iv : Block} {d : List Byte} (hctx : s.ctxValid = true)
    (hiv : s.iv = some iv) (hd : s.dataIn = some d) :
    State.cipherOperands { s with dataOut := none } = some (s.rk, iv, d) :=
  (cipherOperands_eq_some _ _ _ _).2 ⟨hctx, rfl, hiv, hd⟩

theorem cipherOperands_of_missing {s : State} (h : s.ctxValid = false ∨ s.iv = none ∨ s.dataIn = none) :
    State.cipherOperands { s with dataOut := none } = none :=
  (cipherOperands_eq_none _).2 h

theorem encryptCommand_of_operands {s : State} {iv : Block} {d : List Byte} (hctx : s.ctxValid = true)
    (hiv : s.iv = some iv) (hd : s.dataIn = some d) :
    encryptCommand s = finish { s with dataOut := some (cbcEnc s.rk iv d) } := by
  simp only [encryptCommand, cipherOperands_withoutDataOut hctx hiv hd]

theorem encryptCommand_of_missing {s : State} (h : s.ctxValid = false ∨ s.iv = none ∨ s.dataIn = none) :
    encryptCommand s = raise .genericError { s with dataOut := none } := by
  simp only [encryptCommand, cipherOperands_of_missing h]

theorem decryptCommand_of_ok {s : State} {iv : Block} {c p : List Byte} (hctx : s.ctxValid = true)
    (hiv : s.iv = some iv) (hc : s.dataIn = some c) (h : cbcDec s.rk iv c = .ok p) :
    decryptCommand s = finish { s with dataOut := some p } := by
  simp only [decryptCommand, cipherOperands_withoutDataOut hctx hiv hc, h]

theorem decryptCommand_of_error {s : State} {iv : Block} {c : List Byte} {e : ErrorKind} (hctx : s.ctxValid = true)
    (hiv : s.iv = some iv) (hc : s.dataIn = some c) (h : cbcDec s.rk iv c = .error e) :
    decryptCommand s = raise e { s with dataOut := none } := by
  simp only [decryptCommand, cipherOperands_withoutDataOut hctx hiv hc, h]

theorem decryptCommand_of_missing {s : State} (h : s.ctxValid = false ∨ s.iv = none ∨ s.dataIn = none) :
    decryptCommand s = raise .genericError { s with dataOut := none } := by
  simp only [decryptCommand, cipherOperands_of_missing h]

/-- Settles O41: ENCRYPT by whether its operands are there. -/
theorem encryptPublishesCbcenc : Obligations.EncryptPublishesCbcenc := by
  refine ⟨commandStep_of_decodeCmd rfl, fun s iv d hctx hiv hd => ?_, fun s h => ?_⟩
  · exact ⟨_, congrArg Host.Outcome.next (encryptCommand_of_operands hctx hiv hd), rfl, rfl, rfl, finish_persistent _,
      cbcEnc_length s.rk iv d, status_outPresent _⟩
  · exact ⟨_, congrArg Host.Outcome.next (encryptCommand_of_missing h), rfl, rfl, rfl, raise_persistent _ _,
      status_outPresent _⟩

/-- Settles O42: DECRYPT by whether its operands are there and what CBCDEC gives. -/
theorem decryptPublishesOrFailsClosed : Obligations.DecryptPublishesOrFailsClosed := by
  refine ⟨commandStep_of_decodeCmd rfl, fun s iv c p hctx hiv hc h => ?_, fun s iv c e hctx hiv hc h => ?_, fun s h => ?_⟩
  · exact ⟨_, congrArg Host.Outcome.next (decryptCommand_of_ok hctx hiv hc h), rfl, rfl, rfl, finish_persistent _,
      status_outPresent _⟩
  · exact ⟨_, congrArg Host.Outcome.next (decryptCommand_of_error hctx hiv hc h), rfl, rfl, rfl, raise_persistent _ _,
      status_outPresent _⟩
  · exact ⟨_, congrArg Host.Outcome.next (decryptCommand_of_missing h), rfl, rfl, rfl, raise_persistent _ _,
      status_outPresent _⟩

/-- A DECRYPT of what ENCRYPT has published: the context and the IV are still those of ENCRYPT. -/
theorem decryptCommand_after_encryptCommand {s : State} {iv : Block} {p : List Byte} (hctx : s.ctxValid = true)
    (hiv : s.iv = some iv) (hd : s.dataIn = some p) :
    decryptCommand (loadData (cbcEnc s.rk iv p) (encryptCommand s)) =
      finish { loadData (cbcEnc s.rk iv p) (encryptCommand s) with dataOut := some p } := by
  rw [encryptCommand_of_operands hctx hiv hd]
  exact decryptCommand_of_ok (iv := iv) hctx hiv rfl (cbcDec_cbcEnc s.rk iv p)

/-- Settles O36: CBCDEC undoes CBCENC, and ENCRYPT keeps the context and the IV for DECRYPT. -/
theorem messageRoundTrip : Obligations.MessageRoundTrip := by
  refine ⟨cbcDec_cbcEnc, fun s t u p hctx hsome hd ht => ?_⟩
  obtain ⟨iv, hiv⟩ := Option.isSome_iff_exists.1 hsome
  cases ht
  refine ⟨cbcEnc s.rk iv p, by rw [encryptCommand_of_operands hctx hiv hd, finish_dataOut], fun hu => ?_⟩
  cases hu
  rw [decryptCommand_after_encryptCommand hctx hiv hd]
  exact ⟨rfl, rfl⟩

/-! ### A command is a function of its inputs (46_cbc_commands.md R184) -/

theorem commandInputs_eq_iff (s s' : State) : s.commandInputs = s'.commandInputs ↔
    s.persistent.context = s'.persistent.context ∧ s.iv = s'.iv ∧ s.keyIn = s'.keyIn ∧ s.dataIn = s'.dataIn := by
  simp only [State.commandInputs, Prod.mk.injEq]

/-- All that persists is the inputs of a command, DATA_OUT and STATUS.ERR. -/
theorem persistent_congr {s s' : State} (hin : s.commandInputs = s'.commandInputs) (hout : s.dataOut = s'.dataOut)
    (herr : s.err = s'.err) : s.persistent = s'.persistent := by
  obtain ⟨hctx, hiv, hkey, hdata⟩ := (commandInputs_eq_iff s s').1 hin
  exact (Persistent.mk.injEq ..).mpr ⟨hctx, hiv, hkey, hdata, hout, herr⟩

/-- The operands of ENCRYPT and DECRYPT, read from the context that persists: RK counts only where there is one. -/
theorem cipherOperands_eq_bind_context (s : State) :
    s.cipherOperands = s.persistent.context.bind fun k => s.iv.bind fun iv => s.dataIn.map fun d => (k.2, iv, d) := by
  rw [State.cipherOperands, State.persistent]
  cases s.ctxValid with
  | false => rfl
  | true => cases s.iv <;> cases s.dataIn <;> rfl

theorem cipherOperands_congr {s s' : State} (h : s.commandInputs = s'.commandInputs) :
    s.cipherOperands = s'.cipherOperands := by
  obtain ⟨hctx, hiv, -, hdata⟩ := (commandInputs_eq_iff s s').1 h
  rw [cipherOperands_eq_bind_context, cipherOperands_eq_bind_context, hctx, hiv, hdata]

/-- A command other than a successful INIT leaves the inputs of a command as they were. -/
theorem commandStep_keeps_commandInputs {c : CmdCode} {s t : State} (h : commandStep c s = .next t)
    (hc : c = 0x01 → t.err ≠ .ok) : t.commandInputs = s.commandInputs := by
  obtain ⟨hkey, hrk, hctx⟩ := commandStep_keeps_context h hc
  have hslots := commandStep_operandSlots h
  simp only [State.operandSlots, Prod.mk.injEq] at hslots
  obtain ⟨hkeyIn, hiv, hdata⟩ := hslots
  exact (commandInputs_eq_iff t s).2 ⟨by simp only [State.persistent, hkey, hrk, hctx], hiv, hkeyIn, hdata⟩

/-- INIT replaces the whole context, so after a success not even the old one matters. -/
theorem initCommand_persistent_congr {s s' : State} (hin : s.commandInputs = s'.commandInputs)
    (hout : s.dataOut = s'.dataOut) : (initCommand s).persistent = (initCommand s').persistent := by
  obtain ⟨-, hiv, hkey, hdata⟩ := (commandInputs_eq_iff s s').1 hin
  rcases initCommand_cases s with ⟨hk, h⟩ | ⟨k, hk, hl, h⟩ | ⟨k, hk, hl, -⟩
  · rw [h, initCommand_of_absent (hkey.symm.trans hk)]
    exact persistent_congr hin hout rfl
  · rw [h, initCommand_of_length (hkey.symm.trans hk) hl]
    exact persistent_congr hin hout rfl
  · rw [← toList_toBlock k hl] at hk
    rw [initCommand_persistent_of_key hk, initCommand_persistent_of_key (hkey.symm.trans hk)]
    simp only [State.persistent, hiv, hkey, hdata, hout]

/-- Settles O50: the context and the slots after a command are those before it, INIT apart, and what it ends with and
publishes depends on its operands alone. -/
theorem commandIsFunctionOfItsInputs : Obligations.CommandIsFunctionOfItsInputs := by
  intro c s s' hin hout
  obtain ⟨t, ht⟩ := commandStep_next c s
  obtain ⟨t', ht'⟩ := commandStep_next c s'
  refine ⟨t, t', ht, ht', ?_⟩
  have hkept (hc : c ≠ 0x01) : t.commandInputs = t'.commandInputs :=
    calc t.commandInputs = s.commandInputs := commandStep_keeps_commandInputs ht fun h => absurd h hc
      _ = s'.commandInputs := hin
      _ = t'.commandInputs := (commandStep_keeps_commandInputs ht' fun h => absurd h hc).symm
  rcases decodeCmd_cases c with ⟨rfl, -⟩ | ⟨rfl, -⟩ | ⟨rfl, -⟩ | ⟨h1, h2, h3, -⟩
  · cases ht
    cases ht'
    exact initCommand_persistent_congr hin hout
  · cases ht
    cases ht'
    obtain ⟨herr, hpublished⟩ := encryptCommand_outcome_congr (cipherOperands_congr hin)
    exact persistent_congr (hkept (by decide)) hpublished herr
  · cases ht
    cases ht'
    obtain ⟨herr, hpublished⟩ := decryptCommand_outcome_congr (cipherOperands_congr hin)
    exact persistent_congr (hkept (by decide)) hpublished herr
  · rw [commandStep_of_reserved h1 h2 h3] at ht ht'
    cases ht
    cases ht'
    exact persistent_congr (hkept h1) hout rfl

/-! ### The commands over the registers (46_cbc_commands.md R181) -/

theorem initBySequencer_persistent (s : State) : (initBySequencer s).persistent = (initCommand s).persistent := by
  rw [initBySequencer]
  cases h : s.keyIn with
  | none => rw [onKeyIn_of_absent _ s h, initCommand_of_absent h]
  | some k =>
    by_cases hk : k.length = 16
    · obtain ⟨key, rfl⟩ : ∃ key : Block, k = key.toList := ⟨toBlock k, (toList_toBlock k hk).symm⟩
      obtain ⟨t, rd, n, hop⟩ := expandOp_eq key s
      rw [onKeyIn_of_key _ s _ h, initCommand_persistent_of_key h, hop]
      rfl
    · rw [onKeyIn_of_length _ s k h hk, initCommand_of_length h hk]

/-- Publishing what CBCENC left over the registers. -/
theorem publish_cbcEncOp_persistent (iv : Block) (d : List Byte) (s : State) :
    (publish (cbcEncOp iv d s)).persistent =
      { s.persistent with dataOut := some (cbcEnc s.rk iv d), err := .ok } := by
  obtain ⟨a, b, col, rd, i, n, w, hop⟩ := cbcEncOp_eq iv d s
  rw [hop]
  rfl

/-- Publishing what CBCDEC left over the registers, when the function gives bytes. -/
theorem publish_cbcDecOp_of_ok {s : State} {iv : Block} {c p : List Byte} (h : cbcDec s.rk iv c = .ok p) :
    (publish (cbcDecOp iv c s)).persistent = { s.persistent with dataOut := some p, err := .ok } := by
  obtain ⟨a, b, x, col, rd, i, n, w, hop⟩ := cbcDecOp_of_ok h
  rw [hop]
  rfl

/-- Publishing nothing when CBCDEC raised: its error is raised again, which what persists does not show. -/
theorem publish_cbcDecOp_of_error {s : State} {iv : Block} {c : List Byte} {e : ErrorKind}
    (h : cbcDec s.rk iv c = .error e) :
    (publish (cbcDecOp iv c s)).persistent = { s.persistent with err := .raised e } := by
  obtain ⟨t, hop, ht⟩ := cbcDecOp_of_error h
  rw [hop, ← ht]
  rfl

theorem encryptBySequencer_persistent (s : State) :
    (encryptBySequencer s).persistent = (encryptCommand s).persistent := by
  simp only [encryptBySequencer, encryptCommand]
  cases h : State.cipherOperands { s with dataOut := none } with
  | none => rfl
  | some q =>
    obtain ⟨rk, iv, d⟩ := q
    obtain ⟨-, hrk, -, -⟩ := (cipherOperands_eq_some _ _ _ _).1 h
    subst hrk
    exact publish_cbcEncOp_persistent iv d _

theorem decryptBySequencer_persistent (s : State) :
    (decryptBySequencer s).persistent = (decryptCommand s).persistent := by
  simp only [decryptBySequencer, decryptCommand]
  cases h : State.cipherOperands { s with dataOut := none } with
  | none => rfl
  | some q =>
    obtain ⟨rk, iv, c⟩ := q
    obtain ⟨-, hrk, -, -⟩ := (cipherOperands_eq_some _ _ _ _).1 h
    subst hrk
    dsimp only
    cases hdec : cbcDec s.rk iv c with
    | ok p => exact publish_cbcDecOp_of_ok hdec
    | error e => exact publish_cbcDecOp_of_error hdec

/-- Settles O53: command by command. -/
theorem sequencerRefinesTheCommands : Obligations.SequencerRefinesTheCommands := fun s =>
  ⟨⟨_, rfl, initBySequencer_persistent s⟩, ⟨_, rfl, encryptBySequencer_persistent s⟩,
    ⟨_, rfl, decryptBySequencer_persistent s⟩⟩

end Sys2Proof.Machine
end

section
/-! PROOFS of the family 60_exceptions.md: what a command leaves after an error (R195), its outcome in the order of priority
(R198), that no error stops the machine (R200), and the micro-operations without an operand slot (log 8). -/

namespace Sys2Proof.Machine

/-! ### What an error leaves (60_exceptions.md R195) -/

theorem ownsDataOut_iff (c : CmdCode) : ownsDataOut c = true ↔ c = 0x02 ∨ c = 0x03 := by
  simp only [ownsDataOut, Bool.or_eq_true, beq_iff_eq]

/-- Each of the four ends of a command leaves the HOST's fields alone. -/
theorem commandStep_keeps_host {c : CmdCode} {s t : State} (h : commandStep c s = .next t) :
    t.script = s.script ∧ t.yielded = s.yielded := by
  rcases commandStep_ends h with ⟨-, -, e, rfl⟩ | ⟨-, e, rfl⟩ | ⟨-, k, -, -, rfl⟩ | ⟨-, -, -, -, x, rfl⟩
  · exact ⟨rfl, rfl⟩
  · exact ⟨rfl, rfl⟩
  · exact ⟨rfl, rfl⟩
  · exact ⟨rfl, rfl⟩

/-- Each of the four ends of a command drops the sequencer's steps with the transients. -/
theorem commandStep_seq {c : CmdCode} {s t : State} (h : commandStep c s = .next t) : t.seq = [] := by
  rcases commandStep_ends h with ⟨-, -, e, rfl⟩ | ⟨-, e, rfl⟩ | ⟨-, k, -, -, rfl⟩ | ⟨-, -, -, -, x, rfl⟩
  · exact raise_seq e s
  · exact raise_seq e _
  · exact finish_seq _
  · exact finish_seq _

/-- A command that owns DATA_OUT has published it exactly when it ended with OK. -/
theorem commandStep_dataOut_isSome_iff {c : CmdCode} {s t : State} (hc : ownsDataOut c = true)
    (h : commandStep c s = .next t) : t.dataOut.isSome = true ↔ t.err = .ok := by
  rw [ownsDataOut_iff] at hc
  rcases commandStep_ends h with ⟨h2, h3, -⟩ | ⟨-, e, rfl⟩ | ⟨rfl, -⟩ | ⟨-, -, -, -, x, rfl⟩
  · exact absurd hc (not_or.2 ⟨h2, h3⟩)
  · simp
  · exact absurd hc (by decide)
  · simp

/-- Settles O44: an error is no success, so the context and DATA_OUT are not written; the slots and the HOST's fields no
command writes. -/
theorem errorEntryKeepsContextAndOperands : Obligations.ErrorEntryKeepsContextAndOperands := by
  refine ⟨fun c s t h => commandStep_keeps_host h, fun c s t e h herr => ?_⟩
  have hne : t.err ≠ .ok := by simp [herr]
  obtain ⟨hcode, -⟩ := status_fields t
  rw [herr] at hcode
  obtain ⟨hkey, hrk, hctx⟩ := commandStep_keeps_context h fun _ => hne
  have hslots := commandStep_operandSlots h
  simp only [State.operandSlots, Prod.mk.injEq] at hslots
  obtain ⟨hkeyIn, hiv, hdataIn⟩ := hslots
  refine ⟨hcode, fun hc => ?_, fun hc => ?_, hkey, hrk, hctx, hkeyIn, hiv, hdataIn, commandStep_seq h⟩
  · exact Option.not_isSome_iff_eq_none.1 fun hout => hne ((commandStep_dataOut_isSome_iff hc h).1 hout)
  · obtain ⟨h2, h3⟩ := not_or.1 (mt (ownsDataOut_iff c).2 (Bool.eq_false_iff.1 hc))
    exact commandStep_keeps_dataOut h h2 h3

/-! ### The outcome of a command (60_exceptions.md R198) -/

theorem operand_missing_of_no_operands {s : State}
    (h : ∀ iv d, s.ctxValid = true → s.iv = some iv → s.dataIn = some d → False) :
    s.ctxValid = false ∨ s.iv = none ∨ s.dataIn = none := by
  rcases encryptCommand_cases s with ⟨hmissing, -⟩ | ⟨iv, d, hctx, hiv, hd, -⟩
  · exact hmissing
  · exact (h iv d hctx hiv hd).elim

section
variable {s : State} {iv : Block} {c : List Byte} (hctx : s.ctxValid = true) (hiv : s.iv = some iv)
  (hc : s.dataIn = some c)
include hctx hiv hc

/-- The size error comes before any block is decrypted (60_exceptions.md R192). -/
theorem decryptCommand_err_of_wrong_size (h : c.length = 0 ∨ c.length % 16 ≠ 0) :
    (decryptCommand s).err = .raised .invalidInputSize := by
  rw [decryptCommand_of_error hctx hiv hc (cbcDec_of_wrong_size s.rk iv h), raise_err]

theorem decryptCommand_err_of_unpad_ok {p : List Byte} (h0 : c.length ≠ 0) (h16 : c.length % 16 = 0)
    (h : unpad (cbcDecLoop s.rk c (c.length / 16) 0 iv) = .ok p) : (decryptCommand s).err = .ok := by
  rw [decryptCommand_of_ok hctx hiv hc ((cbcDec_of_whole_blocks s.rk iv h0 h16).trans h), finish_err]

/-- On whole blocks UNPAD's only error is DECRYPT's (60_exceptions.md R193). -/
theorem decryptCommand_err_of_unpad_error {e : ErrorKind} (h0 : c.length ≠ 0) (h16 : c.length % 16 = 0)
    (h : unpad (cbcDecLoop s.rk c (c.length / 16) 0 iv) = .error e) :
    (decryptCommand s).err = .raised .invalidPadding := by
  rw [decryptCommand_of_error hctx hiv hc ((cbcDec_of_whole_blocks s.rk iv h0 h16).trans h), raise_err,
    eq_invalidPadding_of_unpad_eq_error h]

end

/-- Settles O45: command by command, and DECRYPT by its operands, then the size, then UNPAD. -/
theorem errorPriority : Obligations.ErrorPriority := by
  intro c s
  rcases commandStep_cases c s with ⟨rfl, h⟩ | ⟨rfl, h⟩ | ⟨rfl, h⟩ | ⟨h1, h2, h3, h⟩ <;> refine ⟨_, h, ?_⟩
  · rw [if_pos rfl]
    rcases initCommand_cases s with ⟨hk, hinit⟩ | ⟨k, hk, hlen, hinit⟩ | ⟨k, hk, hlen, hinit⟩
    · rw [hinit, hk, raise_err]
    · simp only [hinit, hk, raise_err, if_pos hlen]
    · simp only [hinit, hk, finish_err, if_neg (not_not.2 hlen)]
  · rw [if_neg (by decide), if_pos (.inl rfl)]
    split
    next iv d hctx hiv hd => rw [encryptCommand_of_operands hctx hiv hd, finish_err, if_pos rfl]
    next hnone => rw [encryptCommand_of_missing (operand_missing_of_no_operands hnone), raise_err]
  · rw [if_neg (by decide), if_pos (.inr rfl)]
    split
    next iv d hctx hiv hd =>
      rw [if_neg (by decide)]
      rcases wrong_size_or_whole_blocks d with hsize | ⟨h0, h16⟩
      · rw [if_pos hsize, decryptCommand_err_of_wrong_size hctx hiv hd hsize]
      · rw [if_neg (not_or.2 ⟨h0, not_not.2 h16⟩)]
        split
        next p hunpad => exact decryptCommand_err_of_unpad_ok hctx hiv hd h0 h16 hunpad
        next e hunpad => exact decryptCommand_err_of_unpad_error hctx hiv hd h0 h16 hunpad
    next hnone => rw [decryptCommand_of_missing (operand_missing_of_no_operands hnone), raise_err]
  · rw [if_neg h1, if_neg (not_or.2 ⟨h2, h3⟩)]
    exact raise_err _ s

/-! ### No error stops the machine (60_exceptions.md R200) -/

/-- With the default capacities no HOST step is refused. -/
theorem hostStep_next (a : HostStep) (s : State) : ∃ t, hostStep Config.capacity a s = .next t := by
  cases a with
  | cmd c => exact commandStep_next c s
  | reset | loadIv _ | readStatus | readOut => exact ⟨_, rfl⟩
  | loadKey x => exact ⟨_, loadWithin_of_fits rfl _⟩
  | loadData x => exact ⟨_, loadWithin_of_fits rfl _⟩

/-- A HOST step leaves an idle sequencer idle: a load or a read does not touch it, and a reset or a command clears it. -/
theorem hostStep_seq_of_idle {a : HostStep} {s t : State} (hs : s.seq = [])
    (h : hostStep Config.capacity a s = .next t) : t.seq = [] := by
  rcases hostStep_cases h with ⟨-, rfl⟩ | ⟨x, -, rfl⟩ | ⟨x, -, rfl⟩ | ⟨x, -, rfl⟩ | ⟨c, -, h⟩ | ⟨y, -, rfl⟩
  · exact resetCore_seq s
  · exact hs
  · exact hs
  · exact hs
  · exact commandStep_seq h
  · exact hs

theorem step_of_nothing_waiting {s : State} (hs : s.seq = []) (hscript : s.script = []) : step s = .next s := by
  simp only [step, stepWith, hs, hscript]

/-- Settles O57: the step is the HOST's next one, which is always taken, or leaves the state alone. -/
theorem machineNeverStopsBetweenCommands : Obligations.MachineNeverStopsBetweenCommands := by
  refine ⟨fun s hs => ?_, fun s => step_of_nothing_waiting⟩
  cases hscript : s.script with
  | nil => exact ⟨s, step_of_nothing_waiting hs hscript, hs⟩
  | cons a rest =>
    obtain ⟨t, h⟩ := hostStep_next a { s with script := rest }
    exact ⟨t, (step_of_hostStep hs hscript).trans h, hostStep_seq_of_idle (s := { s with script := rest }) hs h⟩

/-! ### A micro-operation without its operand slot (log 8) -/

theorem exec_expand_of_absent {s : State} (h : s.keyIn = none) : exec .expand s = .next (raise .genericError s) :=
  congrArg Host.Outcome.next (onKeyIn_of_absent expandOp s h)

theorem exec_pad_of_absent {s : State} (h : s.dataIn = none) : exec .pad s = .next (raise .genericError s) := by
  simp only [exec, execPad, h]

theorem exec_cbcenc_of_missing {s : State} (h : s.iv = none ∨ s.dataIn = none) :
    exec .cbcenc s = .next (raise .genericError s) := by
  simp only [exec, execCbcenc, (cbcOperands_eq_none s).2 h]

theorem exec_cbcdec_of_missing {s : State} (h : s.iv = none ∨ s.dataIn = none) :
    exec .cbcdec s = .next (raise .genericError s) := by
  simp only [exec, execCbcdec, (cbcOperands_eq_none s).2 h]

/-- Settles O35: micro-operation by micro-operation, and what an error entry keeps. -/
theorem missingOperandRaisesGenericError : Obligations.MissingOperandRaisesGenericError :=
  ⟨fun _ => exec_expand_of_absent, fun _ => exec_pad_of_absent,
    fun _ h => ⟨exec_cbcenc_of_missing h, exec_cbcdec_of_missing h⟩, raise_persistent .genericError⟩

end Sys2Proof.Machine
end

section
/-! PROOFS of the family 70_reset_and_hazards.md: no decrypted byte is readable before UNPAD has succeeded (R222), and what a
reset leaves (R216). -/

namespace Sys2Proof.Machine

/-! ### DECRYPT fails closed (70_reset_and_hazards.md R222) -/

/-- CBCDEC checks the size first, so a result is UNPAD's result on whole blocks (46_cbc_commands.md R172). -/
theorem unpad_of_cbcDec_eq_ok {rk : Schedule} {iv : Block} {c p : List Byte} (h : cbcDec rk iv c = .ok p) :
    c.length ≠ 0 ∧ c.length % 16 = 0 ∧ unpad (cbcDecLoop rk c (c.length / 16) 0 iv) = .ok p := by
  rcases wrong_size_or_whole_blocks c with hsize | ⟨h0, h16⟩
  · rw [cbcDec_of_wrong_size rk iv hsize] at h
    cases h
  · exact ⟨h0, h16, (cbcDec_of_whole_blocks rk iv h0 h16).symm.trans h⟩

/-- Only DECRYPT's success makes DATA_OUT present: the two error ends leave it absent. -/
theorem cbcDec_of_decryptCommand_dataOut {s : State} {p : List Byte} (h : (decryptCommand s).dataOut = some p) :
    ∃ iv c, s.ctxValid = true ∧ s.iv = some iv ∧ s.dataIn = some c ∧ cbcDec s.rk iv c = .ok p := by
  rcases decryptCommand_cases s with ⟨-, hend⟩ | ⟨_, _, _, -, -, -, -, hend⟩ | ⟨iv, c, q, hctx, hiv, hc, hq, hend⟩ <;>
    rw [hend] at h
  · cases h
  · cases h
  · cases h
    exact ⟨iv, c, hctx, hiv, hc, hq⟩

/-- A padding error is not the error of a missing operand, so there was a context, which DECRYPT keeps. -/
theorem decryptCommand_of_invalidPadding {s : State} (h : (decryptCommand s).err = .raised .invalidPadding) :
    (decryptCommand s).ctxValid = true ∧ (decryptCommand s).dataOut = none := by
  rcases decryptCommand_cases s with ⟨-, hend⟩ | ⟨_, _, _, hctx, -, -, -, hend⟩ | ⟨_, _, _, -, -, -, -, hend⟩ <;>
    rw [hend] at h ⊢
  · cases h
  · exact ⟨hctx, rfl⟩
  · cases h

/-- STATUS shows nothing but the three fields it is put together from (10_state.md R36). -/
theorem status_congr {s t : State} (herr : s.err = t.err) (hctx : s.ctxValid = t.ctxValid)
    (hout : s.dataOut.isSome = t.dataOut.isSome) : s.status = t.status := by
  rw [State.status, State.status, herr, hctx, hout]

/-- Settles O52: what DECRYPT publishes is CBCDEC's result; after a padding error there is a context and no DATA_OUT, which
with the error fixes STATUS. -/
theorem decryptionFailsClosed : Obligations.DecryptionFailsClosed := by
  refine ⟨fun c s t => commandStep_dataOut_isSome_iff, fun s t p h hout => ?_, fun s s' t t' h h' herr herr' => ?_⟩
  · cases h
    obtain ⟨iv, c, hctx, hiv, hc, hdec⟩ := cbcDec_of_decryptCommand_dataOut hout
    exact ⟨iv, c, hctx, hiv, hc, unpad_of_cbcDec_eq_ok hdec⟩
  · cases h
    cases h'
    obtain ⟨hctx, hout⟩ := decryptCommand_of_invalidPadding herr
    obtain ⟨hctx', hout'⟩ := decryptCommand_of_invalidPadding herr'
    have hpresent := congrArg Option.isSome (hout.trans hout'.symm)
    exact ⟨status_congr (herr.trans herr'.symm) (hctx.trans hctx'.symm) hpresent, hout, hout'⟩

/-! ### Reset (70_reset_and_hazards.md R216) -/

/-- A power-up leaves no context, no slot and no error, so STATUS is 0x00 (10_state.md R41). -/
theorem powerUp_status (n : Nat) : (State.powerUp n).status = 0x00 := by
  simp [State.status, State.powerUp, ErrField.code]

/-- Settles O54: reset is a power-up, and a RESET step is `resetCore`, which keeps the HOST's script and record (log 23). -/
theorem resetLeavesNoContext : Obligations.ResetLeavesNoContext := by
  refine ⟨⟨rfl, powerUp_status 0, rfl⟩, fun caps s => ⟨resetCore s, rfl, resetCore_persistent s, ?_⟩⟩
  exact ⟨resetCore_ctxValid s, resetCore_status s, resetCore_seq s, resetCore_script s, resetCore_yielded s⟩

end Sys2Proof.Machine
end
